-- ==== Sys2Proof/Word.lean ====
section
/-! DEFINITION. The word types of the CORE (R5, R8, R12): bytes, 16-bit words, 12-bit addresses, register numbers. -/

namespace Sys2Proof

/-- A byte: 8 bits, unsigned (R8, R12). -/
abbrev Byte := BitVec 8

/-- A word: 16 bits, the width of an instruction, of pc, of I and of a stack entry (R5, R12, R30). -/
abbrev Word := BitVec 16

/-- The 12-bit address field `nnn` of an instruction (R72). -/
abbrev Addr := BitVec 12

/-- The number of a general register, 0x0 to 0xF (R21). -/
abbrev Reg := Fin 16

/-- One framebuffer row: 64 one-bit pixels, column `xx` at bit `xx` (R35, R40). -/
abbrev PixelRow := BitVec 64

end Sys2Proof
end

