-- ==== Sys2Proof/Syntax.lean ====
section
/-! DEFINITION. The 35 instructions of R75, one constructor per row of spec/opcode_table.json, with the operand
fields of R72. -/

namespace Sys2Proof

/-- The instruction set (R75). `x` and `y` are register numbers, `n` a row count, `kk` an 8-bit immediate, `nnn` a
12-bit address (R72, R73). -/
inductive Instr where
  | sys (nnn : Addr)
  | cls
  | ret
  | jp (nnn : Addr)
  | call (nnn : Addr)
  | seImm (x : Reg) (kk : Byte)
  | sneImm (x : Reg) (kk : Byte)
  | seReg (x y : Reg)
  | ldImm (x : Reg) (kk : Byte)
  | addImm (x : Reg) (kk : Byte)
  | ldReg (x y : Reg)
  | or (x y : Reg)
  | and (x y : Reg)
  | xor (x y : Reg)
  | addReg (x y : Reg)
  | sub (x y : Reg)
  /-- `y` is decoded but not used (R80). -/
  | shr (x y : Reg)
  | subn (x y : Reg)
  /-- `y` is decoded but not used (R80). -/
  | shl (x y : Reg)
  | sneReg (x y : Reg)
  | ldI (nnn : Addr)
  | jpV0 (nnn : Addr)
  | rnd (x : Reg) (kk : Byte)
  | drw (x y : Reg) (n : Fin 16)
  | skp (x : Reg)
  | sknp (x : Reg)
  | ldVxDt (x : Reg)
  | ldVxK (x : Reg)
  | ldDtVx (x : Reg)
  | ldStVx (x : Reg)
  | addI (x : Reg)
  | ldF (x : Reg)
  | ldB (x : Reg)
  | stRegs (x : Reg)
  | ldRegs (x : Reg)
  deriving DecidableEq, Repr

end Sys2Proof
end

