-- ==== Sys2Proof/Decode.lean ====
section
/-! DEFINITION. Decoding (R72, R78, R79), the encoder written from the formats of R71 and R75, and the opcode table
of R83. -/

namespace Sys2Proof

/-- Why bytes are no instruction. -/
inductive DecodeReject where
  /-- fewer than the two bytes every instruction has (R70) -/
  | truncated
  /-- the word selects no instruction (R79) -/
  | unknownOpcode (w : Word)
  deriving DecidableEq, Repr

/-- `w[hi:lo]` (R8): the field of `w` from bit `hi` down to bit `lo`, as an unsigned number. -/
def field (w : Word) (hi lo : Nat) : Nat := w.toNat / 2 ^ lo % 2 ^ (hi - lo + 1)

/-- The field `x` = w[11:8] (R72). -/
def fieldX (w : Word) : Reg := Fin.ofNat 16 (field w 11 8)

/-- The field `y` = w[7:4] (R72). -/
def fieldY (w : Word) : Reg := Fin.ofNat 16 (field w 7 4)

/-- The field `n` = w[3:0] (R72). -/
def fieldN (w : Word) : Fin 16 := Fin.ofNat 16 (field w 3 0)

/-- The field `kk` = w[7:0] (R72). -/
def fieldKK (w : Word) : Byte := BitVec.ofNat 8 (field w 7 0)

/-- The field `nnn` = w[11:0] (R72). -/
def fieldNNN (w : Word) : Addr := BitVec.ofNat 12 (field w 11 0)

/-- Family 0x0 dispatches on the whole word (R74, R78): CLS, RET, and SYS for every other word. -/
def decodeFamily0 (w : Word) : Instr :=
  if w = 0x00E0#16 then .cls else if w = 0x00EE#16 then .ret else .sys (fieldNNN w)

/-- Family 0x5 has one instruction, selected when `n` = 0 (R74, R78). -/
def decodeFamily5 (w : Word) : Except DecodeReject Instr :=
  match field w 3 0 with
  | 0x0 => .ok (.seReg (fieldX w) (fieldY w))
  | _ => .error (.unknownOpcode w)

/-- Family 0x9 has one instruction, selected when `n` = 0 (R74, R78). -/
def decodeFamily9 (w : Word) : Except DecodeReject Instr :=
  match field w 3 0 with
  | 0x0 => .ok (.sneReg (fieldX w) (fieldY w))
  | _ => .error (.unknownOpcode w)

/-- Family 0x8 dispatches on `n` (R74, R78). -/
def decodeFamily8 (w : Word) : Except DecodeReject Instr :=
  match field w 3 0 with
  | 0x0 => .ok (.ldReg (fieldX w) (fieldY w))
  | 0x1 => .ok (.or (fieldX w) (fieldY w))
  | 0x2 => .ok (.and (fieldX w) (fieldY w))
  | 0x3 => .ok (.xor (fieldX w) (fieldY w))
  | 0x4 => .ok (.addReg (fieldX w) (fieldY w))
  | 0x5 => .ok (.sub (fieldX w) (fieldY w))
  | 0x6 => .ok (.shr (fieldX w) (fieldY w))
  | 0x7 => .ok (.subn (fieldX w) (fieldY w))
  | 0xE => .ok (.shl (fieldX w) (fieldY w))
  | _ => .error (.unknownOpcode w)

/-- Family 0xE dispatches on `kk` (R74, R78). -/
def decodeFamilyE (w : Word) : Except DecodeReject Instr :=
  match field w 7 0 with
  | 0x9E => .ok (.skp (fieldX w))
  | 0xA1 => .ok (.sknp (fieldX w))
  | _ => .error (.unknownOpcode w)

/-- Family 0xF dispatches on `kk` (R74, R78). -/
def decodeFamilyF (w : Word) : Except DecodeReject Instr :=
  match field w 7 0 with
  | 0x07 => .ok (.ldVxDt (fieldX w))
  | 0x0A => .ok (.ldVxK (fieldX w))
  | 0x15 => .ok (.ldDtVx (fieldX w))
  | 0x18 => .ok (.ldStVx (fieldX w))
  | 0x1E => .ok (.addI (fieldX w))
  | 0x29 => .ok (.ldF (fieldX w))
  | 0x33 => .ok (.ldB (fieldX w))
  | 0x55 => .ok (.stRegs (fieldX w))
  | 0x65 => .ok (.ldRegs (fieldX w))
  | _ => .error (.unknownOpcode w)

/-- The decode algorithm of R78: the family w[15:12] first, then the second-level dispatch of families 0x0, 0x8, 0xE
and 0xF; families 0x5 and 0x9 need `n` = 0. -/
def decode (w : Word) : Except DecodeReject Instr :=
  match field w 15 12 with
  | 0x0 => .ok (decodeFamily0 w)
  | 0x1 => .ok (.jp (fieldNNN w))
  | 0x2 => .ok (.call (fieldNNN w))
  | 0x3 => .ok (.seImm (fieldX w) (fieldKK w))
  | 0x4 => .ok (.sneImm (fieldX w) (fieldKK w))
  | 0x5 => decodeFamily5 w
  | 0x6 => .ok (.ldImm (fieldX w) (fieldKK w))
  | 0x7 => .ok (.addImm (fieldX w) (fieldKK w))
  | 0x8 => decodeFamily8 w
  | 0x9 => decodeFamily9 w
  | 0xA => .ok (.ldI (fieldNNN w))
  | 0xB => .ok (.jpV0 (fieldNNN w))
  | 0xC => .ok (.rnd (fieldX w) (fieldKK w))
  | 0xD => .ok (.drw (fieldX w) (fieldY w) (fieldN w))
  | 0xE => decodeFamilyE w
  | _ => decodeFamilyF w

/-- The word of two consecutive bytes, the first (at the lower address) in bits 15:8 (R10, R53). -/
def wordOfBytes (hi lo : Byte) : Word := hi ++ lo

/-- Bits 15:8 of a word: the byte at the lower address (R53). -/
def highByte (w : Word) : Byte := BitVec.ofNat 8 (field w 15 8)

/-- Bits 7:0 of a word: the byte at the higher address (R53). -/
def lowByte (w : Word) : Byte := BitVec.ofNat 8 (field w 7 0)

/-- Decoding from a stream of bytes, total: the instruction in its first two bytes and the rest (R53, R70). -/
def decodeBytes : List Byte → Except DecodeReject (Instr × List Byte)
  | hi :: lo :: rest =>
    match decode (wordOfBytes hi lo) with
    | .ok i => .ok (i, rest)
    | .error r => .error r
  | [_] => .error .truncated
  | [] => .error .truncated

/-- The instruction the decoder reads from a word numbered as spec/opcode_table.json numbers it: bit 0 is the least
significant bit of the one 16-bit word; bits above `nbits` are 0. -/
def decodeTableWord (nbits w : Nat) : Option Instr :=
  match decodeBytes [highByte (BitVec.ofNat 16 (w % 2 ^ nbits)), lowByte (BitVec.ofNat 16 (w % 2 ^ nbits))] with
  | .ok (i, _) => some i
  | .error _ => none

/-! ### The encoder (R71, R75) -/

/-- Format NNN (R71): family, then the 12 bits of `nnn`. -/
def encodeNNN (f : Nat) (nnn : Addr) : Word := BitVec.ofNat 16 (f * 4096 + nnn.toNat)

/-- Format XKK (R71): family, `x`, `kk`. Format XSS is the same layout with a fixed `kk`. -/
def encodeXKK (f : Nat) (x : Reg) (kk : Byte) : Word := BitVec.ofNat 16 (f * 4096 + x.val * 256 + kk.toNat)

/-- Format XYN (R71): family, `x`, `y`, `n`. Format XYS is the same layout with a fixed `n`. -/
def encodeXYN (f : Nat) (x y : Reg) (n : Fin 16) : Word :=
  BitVec.ofNat 16 (f * 4096 + x.val * 256 + y.val * 16 + n.val)

/-- The instruction word of each instruction, from the patterns of R75. -/
def encode : Instr → Word
  | .sys nnn => encodeNNN 0x0 nnn
  | .cls => 0x00E0#16
  | .ret => 0x00EE#16
  | .jp nnn => encodeNNN 0x1 nnn
  | .call nnn => encodeNNN 0x2 nnn
  | .seImm x kk => encodeXKK 0x3 x kk
  | .sneImm x kk => encodeXKK 0x4 x kk
  | .seReg x y => encodeXYN 0x5 x y 0x0
  | .ldImm x kk => encodeXKK 0x6 x kk
  | .addImm x kk => encodeXKK 0x7 x kk
  | .ldReg x y => encodeXYN 0x8 x y 0x0
  | .or x y => encodeXYN 0x8 x y 0x1
  | .and x y => encodeXYN 0x8 x y 0x2
  | .xor x y => encodeXYN 0x8 x y 0x3
  | .addReg x y => encodeXYN 0x8 x y 0x4
  | .sub x y => encodeXYN 0x8 x y 0x5
  | .shr x y => encodeXYN 0x8 x y 0x6
  | .subn x y => encodeXYN 0x8 x y 0x7
  | .shl x y => encodeXYN 0x8 x y 0xE
  | .sneReg x y => encodeXYN 0x9 x y 0x0
  | .ldI nnn => encodeNNN 0xA nnn
  | .jpV0 nnn => encodeNNN 0xB nnn
  | .rnd x kk => encodeXKK 0xC x kk
  | .drw x y n => encodeXYN 0xD x y n
  | .skp x => encodeXKK 0xE x 0x9E#8
  | .sknp x => encodeXKK 0xE x 0xA1#8
  | .ldVxDt x => encodeXKK 0xF x 0x07#8
  | .ldVxK x => encodeXKK 0xF x 0x0A#8
  | .ldDtVx x => encodeXKK 0xF x 0x15#8
  | .ldStVx x => encodeXKK 0xF x 0x18#8
  | .addI x => encodeXKK 0xF x 0x1E#8
  | .ldF x => encodeXKK 0xF x 0x29#8
  | .ldB x => encodeXKK 0xF x 0x33#8
  | .stRegs x => encodeXKK 0xF x 0x55#8
  | .ldRegs x => encodeXKK 0xF x 0x65#8

/-! ### The opcode table (R83) -/

/-- A fixed field of an opcode-table row: bits `hi` down to `lo` hold `value`. -/
structure FixedField where
  hi    : Nat
  lo    : Nat
  value : Nat
  deriving DecidableEq, Repr

/-- One row of spec/opcode_table.json: its mnemonic, its fixed fields (the row's mask and match, R83) and the words it
excludes (the SYS row only). -/
structure OpcodeRow where
  mnemonic : String
  fixed    : List FixedField
  excludes : List Word
  deriving DecidableEq, Repr

/-- A row whose only fixed field is the family w[15:12]. -/
def familyRow (mnemonic : String) (f : Nat) : OpcodeRow := ⟨mnemonic, [⟨15, 12, f⟩], []⟩

/-- A row that fixes the family and the low nibble. -/
def nibbleRow (mnemonic : String) (f n : Nat) : OpcodeRow := ⟨mnemonic, [⟨15, 12, f⟩, ⟨3, 0, n⟩], []⟩

/-- A row that fixes the family and the low byte. -/
def byteRow (mnemonic : String) (f kk : Nat) : OpcodeRow := ⟨mnemonic, [⟨15, 12, f⟩, ⟨7, 0, kk⟩], []⟩

/-- The rows of families 0x0 to 0x7 (R75). -/
def opcodeRowsLow : List OpcodeRow :=
  [ ⟨"SYS", [⟨15, 12, 0x0⟩], [0x00E0#16, 0x00EE#16]⟩,
    ⟨"CLS", [⟨15, 0, 0x00E0⟩], []⟩,
    ⟨"RET", [⟨15, 0, 0x00EE⟩], []⟩,
    familyRow "JP" 0x1, familyRow "CALL" 0x2, familyRow "SE_IMM" 0x3, familyRow "SNE_IMM" 0x4,
    nibbleRow "SE_REG" 0x5 0x0, familyRow "LD_IMM" 0x6, familyRow "ADD_IMM" 0x7 ]

/-- The rows of families 0x8 to 0xD (R75). -/
def opcodeRowsMid : List OpcodeRow :=
  [ nibbleRow "LD_REG" 0x8 0x0, nibbleRow "OR" 0x8 0x1, nibbleRow "AND" 0x8 0x2, nibbleRow "XOR" 0x8 0x3,
    nibbleRow "ADD_REG" 0x8 0x4, nibbleRow "SUB" 0x8 0x5, nibbleRow "SHR" 0x8 0x6, nibbleRow "SUBN" 0x8 0x7,
    nibbleRow "SHL" 0x8 0xE, nibbleRow "SNE_REG" 0x9 0x0, familyRow "LD_I" 0xA, familyRow "JP_V0" 0xB,
    familyRow "RND" 0xC, familyRow "DRW" 0xD ]

/-- The rows of families 0xE and 0xF (R75). -/
def opcodeRowsHigh : List OpcodeRow :=
  [ byteRow "SKP" 0xE 0x9E, byteRow "SKNP" 0xE 0xA1, byteRow "LD_VX_DT" 0xF 0x07, byteRow "LD_VX_K" 0xF 0x0A,
    byteRow "LD_DT_VX" 0xF 0x15, byteRow "LD_ST_VX" 0xF 0x18, byteRow "ADD_I" 0xF 0x1E, byteRow "LD_F" 0xF 0x29,
    byteRow "LD_B" 0xF 0x33, byteRow "ST_REGS" 0xF 0x55, byteRow "LD_REGS" 0xF 0x65 ]

/-- The opcode table: the 35 rows of R75 and R83. -/
def opcodeTable : List OpcodeRow := opcodeRowsLow ++ opcodeRowsMid ++ opcodeRowsHigh

/-- Whether a word selects a row (R83): every fixed field matches and the word is not excluded. -/
def OpcodeRow.selects (row : OpcodeRow) (w : Word) : Bool :=
  row.fixed.all (fun f => field w f.hi f.lo == f.value) && !row.excludes.contains w

/-- The table mnemonic of each instruction (R75). -/
def Instr.mnemonic : Instr → String
  | .sys _ => "SYS"
  | .cls => "CLS"
  | .ret => "RET"
  | .jp _ => "JP"
  | .call _ => "CALL"
  | .seImm _ _ => "SE_IMM"
  | .sneImm _ _ => "SNE_IMM"
  | .seReg _ _ => "SE_REG"
  | .ldImm _ _ => "LD_IMM"
  | .addImm _ _ => "ADD_IMM"
  | .ldReg _ _ => "LD_REG"
  | .or _ _ => "OR"
  | .and _ _ => "AND"
  | .xor _ _ => "XOR"
  | .addReg _ _ => "ADD_REG"
  | .sub _ _ => "SUB"
  | .shr _ _ => "SHR"
  | .subn _ _ => "SUBN"
  | .shl _ _ => "SHL"
  | .sneReg _ _ => "SNE_REG"
  | .ldI _ => "LD_I"
  | .jpV0 _ => "JP_V0"
  | .rnd _ _ => "RND"
  | .drw _ _ _ => "DRW"
  | .skp _ => "SKP"
  | .sknp _ => "SKNP"
  | .ldVxDt _ => "LD_VX_DT"
  | .ldVxK _ => "LD_VX_K"
  | .ldDtVx _ => "LD_DT_VX"
  | .ldStVx _ => "LD_ST_VX"
  | .addI _ => "ADD_I"
  | .ldF _ => "LD_F"
  | .ldB _ => "LD_B"
  | .stRegs _ => "ST_REGS"
  | .ldRegs _ => "LD_REGS"

end Sys2Proof
end

