-- ==== Sys2Proof/Config.lean ====
section
/-! DEFINITION. What an implementation fixes (the open parameters of R6) and the free values the environment
draws (R7, R166). -/

namespace Sys2Proof.Config

/-- EDGE_POLICY (R6, D8): what DRW does with a sprite pixel outside the 64 by 32 grid. -/
inductive EdgePolicy where
  | clip
  | wrap
  deriving DecidableEq, Repr

/-- KEY_SELECT (R6, D16): which pressed key LD_VX_K reports when several are pressed. -/
inductive KeySelect where
  | any
  | lowest
  | highest
  deriving DecidableEq, Repr

/-- The open parameters of R6. The types keep the spec's own bounds: FONT_BASE + 80 <= 0x200 (R204), 80 font
bytes (R203). -/
structure Params where
  edgePolicy : EdgePolicy
  fontBase   : Fin 0x1B1
  fontData   : Vector Byte 80
  keySelect  : KeySelect
  deriving DecidableEq, Repr

/-- The random byte of R132, a free input of each step (R7, U7). Its argument is the number of draws used before:
nothing constrains its values (log 3). -/
opaque rnd : Nat → Byte

/-- The environment's choice among several pressed keys under KEY_SELECT = any (R166, R185, S2): LD_VX_K reduces it
to a member of the set of pressed keys. Nothing else constrains its values (log 4). -/
opaque keyDraw : Nat → Nat

end Sys2Proof.Config
end

