-- ==== Sys2Proof/Machine/Font.lean ====
section
/-! DEFINITION. The font of R203 and the default parameters of R6. -/

namespace Sys2Proof.Machine

/-- The glyphs of digits 0 to 7 (R203), five rows each, bit 7 leftmost. -/
def glyphsLow : List Byte :=
  [0xF0, 0x90, 0x90, 0x90, 0xF0] ++ [0x20, 0x60, 0x20, 0x20, 0x70] ++ [0xF0, 0x10, 0xF0, 0x80, 0xF0] ++
  [0xF0, 0x10, 0xF0, 0x10, 0xF0] ++ [0x90, 0x90, 0xF0, 0x10, 0x10] ++ [0xF0, 0x80, 0xF0, 0x10, 0xF0] ++
  [0xF0, 0x80, 0xF0, 0x90, 0xF0] ++ [0xF0, 0x10, 0x20, 0x40, 0x40]

/-- The glyphs of digits 8 to F (R203). -/
def glyphsHigh : List Byte :=
  [0xF0, 0x90, 0xF0, 0x90, 0xF0] ++ [0xF0, 0x90, 0xF0, 0x10, 0xF0] ++ [0xF0, 0x90, 0xF0, 0x90, 0x90] ++
  [0xE0, 0x90, 0xE0, 0x90, 0xE0] ++ [0xF0, 0x80, 0x80, 0x80, 0xF0] ++ [0xE0, 0x90, 0x90, 0x90, 0xE0] ++
  [0xF0, 0x80, 0xF0, 0x80, 0xF0] ++ [0xF0, 0x80, 0xF0, 0x80, 0x80]

/-- The default FONT_DATA: 16 glyphs of 5 bytes, glyph `d` at offset 5 * d (R203; PRESUMED, log 11). -/
def defaultFont : Vector Byte 80 := ⟨(glyphsLow ++ glyphsHigh).toArray, by decide⟩

/-- The defaults of the open parameters (R6): clip, FONT_BASE 0x000, the font of R203, any. -/
def defaultParams : Config.Params :=
  { edgePolicy := .clip, fontBase := 0, fontData := defaultFont, keySelect := .any }

/-- What reset leaves at an address of memory (R200): the font byte at FONT_BASE + i, else 0. It is also what an
unlisted address of State's memory reads as (log 9). -/
def resetByte (p : Config.Params) (a : Nat) : Byte :=
  if h : p.fontBase.val ≤ a ∧ a < p.fontBase.val + 80 then p.fontData[a - p.fontBase.val]'(by omega) else 0

end Sys2Proof.Machine
end

