-- ==== Sys2Proof/Machine/State.lean ====
section
/-! DEFINITION. The Machine State (R20 to R41), the fault latch (R171, R172), the environment's events (R184 to
R190), the ways a step can stop, and the state after reset (R200). -/

namespace Sys2Proof.Machine

/-- The causes of R171. The first five are recorded in the fault latch by a STEP; `romTooLarge` is what a refused LOAD
reports and never stands in the latch (R178). -/
inductive Cause where
  | unknownOpcode
  | stackOverflow
  | stackUnderflow
  | outOfBoundsAccess
  | keyIndexOutOfRange
  | romTooLarge
  deriving DecidableEq, Repr

/-- The fault record `(cause, pc0, word, info)` (R172): the cause, the address the faulting instruction was or was to be
fetched from, its word (0 when the fetch itself faulted) and the value R171 names. -/
structure FaultRecord where
  cause : Cause
  pc0   : Word
  word  : Word
  info  : Nat
  deriving DecidableEq, Repr

/-- An event of the environment (R184 to R190). -/
inductive Event where
  /-- RESET (R189) -/
  | reset
  /-- LOAD(bytes) (R184) -/
  | load (bytes : List Byte)
  /-- STEP (R185); its free inputs are drawn from Config (log 3, log 4) -/
  | step
  /-- TICK (R186) -/
  | tick
  /-- KEYS(k[15:0]) (R187) -/
  | keys (k : BitVec 16)
  /-- FRAME_ACK (R188) -/
  | frameAck
  deriving DecidableEq, Repr

/-- The Machine State (R20), the machine's fixed parameters (R6) and the model's own fields. -/
@[ext]
structure State where
  /-- the open parameters of R6; no step writes them (log 6) -/
  params : Config.Params
  /-- `memory` (R37, R50): the bytes that differ from their reset value, addresses strictly rising (log 9) -/
  mem : List Host.Cell
  /-- V0 to VF (R21), VF being the flag register (R24) -/
  v : Vector Byte 16
  /-- I, `index_register` (R32) -/
  index : Word
  /-- `program_counter` (R27) -/
  pc : Word
  /-- `call_stack` (R30): live entries are those below `sp` -/
  stack : Vector Word 16
  /-- `stack_pointer`, 0 to 16 (R30) -/
  sp : Fin 17
  /-- `delay_timer` (R33) -/
  dt : Byte
  /-- `sound_timer` (R33) -/
  st : Byte
  /-- `keys` (R34): bit k is 1 when key k is pressed -/
  keys : BitVec 16
  /-- `framebuffer` (R35): row yy, column xx is bit xx of row yy -/
  fb : Vector PixelRow 32
  /-- `draw_dirty` (R36) -/
  dirty : Bool
  /-- the fault latch (R39) -/
  fault : Option FaultRecord
  /-- the model's own: how many free draws were used (log 3, log 4) -/
  draws : Nat
  /-- the model's own: the environment's events still to come, in order; with none left the next event is STEP (log 2) -/
  events : List Event
  /-- the model's own: a LOAD is within its contract, RESET being the latest of RESET, LOAD and STEP (R184; log 5) -/
  loadOpen : Bool
  /-- the model's own: the length of the ROM that the LOAD since reset was refused for, as reported to the loader
  (RomTooLarge, R171, R178; log 5) -/
  loadRefusal : Option Nat
  deriving DecidableEq, Repr

/-- Ways a step can stop with a fault. There is none: every fault of the spec is latched in `State.fault` and the
machine goes on (R173, R174), so a raising step answers a next state. Nothing raises this; safe (log 1). -/
inductive Fault where
  deriving DecidableEq, Repr

/-- Ways a step can be refused. -/
inductive Refusal where
  /-- raised by an arm of `exec` whose instruction has no meaning yet; no arm raises it now; safe -/
  | notModelled (mnemonic : String)
  /-- raised by the LOAD event when it is issued outside its contract (after the first STEP, or a second time without
  RESET), which R184 puts outside the spec (S10: refuse); safe (log 5) -/
  | loadOutsideContract
  deriving DecidableEq, Repr

/-- The state RESET produces (R189, R200) for given parameters, with the model's draw counter and the environment's
remaining events. -/
def State.resetWith (params : Config.Params) (draws : Nat) (events : List Event) : State :=
  { params, mem := [], v := Vector.replicate 16 0, index := 0, pc := 0x200, stack := Vector.replicate 16 0, sp := 0,
    dt := 0, st := 0, keys := 0, fb := Vector.replicate 32 0, dirty := false, fault := none,
    draws, events, loadOpen := true, loadRefusal := none }

/-- The machine right after reset (R200), with the default parameters of R6 and no event queued. -/
def State.reset : State := State.resetWith defaultParams 0 []

end Sys2Proof.Machine
end

