-- ==== Sys2Proof/Machine/Ops.lean ====
section
/-! DEFINITION. The named operations over memory, registers, pc, the call stack and the fault latch. Every meaning is
written over these. -/

namespace Sys2Proof.Machine

/-! ### Memory (R37, R50 to R59) -/

/-- The byte listed for an address, if any. -/
def Memory.lookup : List Host.Cell → Nat → Option Byte
  | [], _ => none
  | (b, w) :: m, a => if a = b then some w else Memory.lookup m a

/-- The byte an address holds: the listed one, else what reset left there (R200). -/
def Memory.read (p : Config.Params) (m : List Host.Cell) (a : Nat) : Byte :=
  (Memory.lookup m a).getD (resetByte p a)

/-- Lists a byte at an address, in address order. -/
def Memory.put : List Host.Cell → Nat → Byte → List Host.Cell
  | [], a, v => [(a, v)]
  | (b, w) :: m, a, v =>
    if a < b then (a, v) :: (b, w) :: m else if a = b then (a, v) :: m else (b, w) :: Memory.put m a v

/-- Takes an address off the list. -/
def Memory.erase (m : List Host.Cell) (a : Nat) : List Host.Cell := m.filter (fun c => c.1 != a)

/-- Writes one byte, keeping the canonical form: a byte equal to its reset value is not listed. -/
def Memory.write (p : Config.Params) (m : List Host.Cell) (a : Nat) (v : Byte) : List Host.Cell :=
  if v = resetByte p a then Memory.erase m a else Memory.put m a v

/-- The canonical form of memory: addresses strictly rising and inside 0x000 to 0xFFF (R50), no byte equal to what an
unlisted address reads as. -/
abbrev Memory.wf (p : Config.Params) (m : List Host.Cell) : Prop :=
  m.Pairwise (fun c d => c.1 < d.1) ∧ ∀ c ∈ m, c.1 < 0x1000 ∧ c.2 ≠ resetByte p c.1

/-- `mem[a]` (R9). -/
def State.readByte (s : State) (a : Nat) : Byte := Memory.read s.params s.mem a

/-- `mem[a] <- v`. -/
def State.writeByte (s : State) (a : Nat) (v : Byte) : State :=
  { s with mem := Memory.write s.params s.mem a v }

/-- The `n` bytes at `a`, `a + 1`, ... (R53). -/
def State.readBytes (s : State) (a n : Nat) : List Byte := (List.range n).map (fun k => s.readByte (a + k))

/-- Writes bytes at `a`, `a + 1`, ... (R53). -/
def State.writeBytes (s : State) (a : Nat) : List Byte → State
  | [] => s
  | b :: bs => (s.writeByte a b).writeBytes (a + 1) bs

/-- What a check that fails raises: the cause and the recorded value (R171). -/
structure Raised where
  cause : Cause
  info  : Nat
  deriving DecidableEq, Repr

/-- The bounds check of R54 and R55, over the naturals: an access to the `n` bytes at `a` raises OutOfBoundsAccess when
its last address is above 0xFFF, with the lowest invalid address as `info`; an access to no byte raises nothing. -/
def outOfBounds (a n : Nat) : Option Raised :=
  if 1 ≤ n ∧ 0xFFF < a + (n - 1) then some ⟨.outOfBoundsAccess, max a 0x1000⟩ else none

/-- Reads a range, checked whole first (R11, R55). -/
def State.readRange (s : State) (a n : Nat) : Except Raised (List Byte) :=
  match outOfBounds a n with
  | some r => .error r
  | none => .ok (s.readBytes a n)

/-- Writes a range, checked whole before the first byte (R11, R55). -/
def State.writeRange (s : State) (a : Nat) (bs : List Byte) : Except Raised State :=
  match outOfBounds a bs.length with
  | some r => .error r
  | none => .ok (s.writeBytes a bs)

/-- The instruction fetch (R53, R54): the big-endian word at pc, or OutOfBoundsAccess. -/
def State.fetchWord (s : State) : Except Raised Word :=
  match outOfBounds s.pc.toNat 2 with
  | some r => .error r
  | none => .ok (wordOfBytes (s.readByte s.pc.toNat) (s.readByte (s.pc.toNat + 1)))

/-! ### Registers, pc and the free draws -/

/-- `V[x]` (R9, R21). -/
def State.reg (s : State) (x : Reg) : Byte := s.v[x.val]

/-- `V[x] <- b` (R10, R21). -/
def State.setReg (s : State) (x : Reg) (b : Byte) : State := { s with v := s.v.set x.val b }

/-- `V[0] <- bs[0]`, `V[1] <- bs[1]`, ... as far as the bytes reach (R146); the other registers keep their values. -/
def State.setRegs (s : State) (bs : List Byte) : State :=
  { s with v := Vector.ofFn (fun r => (bs[r.val]?).getD (s.reg r)) }

/-- `I <- a`. -/
def State.setIndex (s : State) (a : Word) : State := { s with index := a }

/-- `pc <- target` (R10). -/
def State.goto (s : State) (target : Word) : State := { s with pc := target }

/-- The address of the instruction after the one at pc: pc0 + 2 (R27, R100). -/
def State.nextPc (s : State) : Word := s.pc + 2

/-- A completed instruction that leaves pc at pc0 + 2 (R28). -/
def State.advance (s : State) : State := s.goto s.nextPc

/-- A completed skip (R28): pc0 + 4 if the condition holds, else pc0 + 2. -/
def State.skipIf (s : State) (c : Bool) : State := s.goto (if c then s.nextPc + 2 else s.nextPc)

/-- Marks the current free draw as used, so that the next one is independent of it (R132; log 3). -/
def State.useDraw (s : State) : State := { s with draws := s.draws + 1 }

/-! ### The call stack (R30, R31) -/

/-- A push: StackOverflow when SP = 16, else `stack[SP] <- w; SP <- SP + 1` (R30, R104). -/
def State.push (s : State) (w : Word) : Except Raised State :=
  if h : s.sp.val < 16 then
    .ok { s with stack := s.stack.set s.sp.val w, sp := ⟨s.sp.val + 1, by omega⟩ }
  else .error ⟨.stackOverflow, 0⟩

/-- A pop: StackUnderflow when SP = 0, else `SP <- SP - 1` and the entry `stack[SP]`, which stays as a dead value
(R30, R102). -/
def State.pop (s : State) : Except Raised (Word × State) :=
  if h : 0 < s.sp.val then
    .ok (s.stack[s.sp.val - 1]'(by omega), { s with sp := ⟨s.sp.val - 1, by omega⟩ })
  else .error ⟨.stackUnderflow, 0⟩

/-! ### Taking a fault (R171 to R173) -/

/-- The code of a cause (R171, D4). -/
def causeCode : Cause → Nat
  | .unknownOpcode => 1
  | .stackOverflow => 2
  | .stackUnderflow => 3
  | .outOfBoundsAccess => 4
  | .keyIndexOutOfRange => 5
  | .romTooLarge => 6

/-- Fault entry (R172, R173), the one shared operation: from the state at the start of the STEP, only the latch changes,
to the record of the cause, the fetch address pc0, the instruction word and the recorded value. There is no return from
a fault: only RESET clears the latch (R175). -/
def State.takeFault (s : State) (r : Raised) (word : Word) : State :=
  { s with fault := some { cause := r.cause, pc0 := s.pc, word := word, info := r.info } }

/-- The end of an instruction that has a check of its own (R11, R100, R173): all its writes, or none and the fault. `s`
is the state at the start of the STEP. -/
def settle (i : Instr) (s : State) : Except Raised State → Host.Outcome State Fault Refusal
  | .ok t => .next t
  | .error r => .next (s.takeFault r (encode i))

/-! ### Output ports (R40) -/

/-- The continuously readable outputs of the CORE (R40). -/
structure Outputs where
  fb    : Vector PixelRow 32
  dirty : Bool
  st    : Byte
  fault : Option FaultRecord
  deriving DecidableEq, Repr

/-- What the environment can read between events (R40). -/
def outputsOf (s : State) : Outputs := { fb := s.fb, dirty := s.dirty, st := s.st, fault := s.fault }

end Sys2Proof.Machine
end

