-- ==== Sys2Proof/Machine/Operands.lean ====
section
/-! DEFINITION. The operand forms of files 40 to 44: immediates, addresses through I, key indices, the pressed keys,
decimal digits. `Vx` and `Vy` are `State.reg`. -/

namespace Sys2Proof.Machine

/-- `zext_16(nnn)` (R73). -/
def zextAddr (nnn : Addr) : Word := nnn.setWidth 16

/-- `zext_16` of a register value (R73). -/
def zextByte (b : Byte) : Word := b.setWidth 16

/-- The jump-offset target of R109: `zext_16(nnn) + zext_16(V[0])`, not masked. -/
def jumpOffset (s : State) (nnn : Addr) : Word := zextAddr nnn + zextByte (s.reg 0)

/-- The glyph address of R143: FONT_BASE + 5 * Vx, with the whole 8-bit Vx. -/
def glyphAddr (s : State) (x : Reg) : Word := BitVec.ofNat 16 (s.params.fontBase.val + 5 * (s.reg x).toNat)

/-- The data address of R140: I as a natural number, to which the instruction's offset is added without wrap. -/
def dataAddr (s : State) : Nat := s.index.toNat

/-- Hundreds, tens and ones of a byte, one digit per byte (R144, D30). -/
def bcdDigits (b : Byte) : List Byte :=
  [BitVec.ofNat 8 (b.toNat / 100), BitVec.ofNat 8 (b.toNat / 10 % 10), BitVec.ofNat 8 (b.toNat % 10)]

/-- V0 to Vx inclusive (R145). -/
def regBlock (s : State) (x : Reg) : List Byte := (List.range (x.val + 1)).map (fun k => s.reg (Fin.ofNat 16 k))

/-- Whether the key a register value names is pressed; a value above 15 names no key and raises KeyIndexOutOfRange
(R160, R161, R162, D15). -/
def keyPressed (s : State) (b : Byte) : Except Raised Bool :=
  if 15 < b.toNat then .error ⟨.keyIndexOutOfRange, b.toNat⟩ else .ok (s.keys.getLsbD b.toNat)

/-- The set of pressed keys, lowest first (R166). -/
def pressedKeys (keys : BitVec 16) : List Reg := (List.finRange 16).filter (fun k => keys.getLsbD k.val)

/-- The key LD_VX_K reports (R166): none if none is pressed; else the lowest, the highest or, under `any`, the member
the draw picks. -/
def selectKey (policy : Config.KeySelect) (draw : Nat) : List Reg → Option Reg
  | [] => none
  | [k] => some k
  | k :: k' :: ks =>
    match policy with
    | .lowest => some k
    | .highest => (k' :: ks).getLast?
    | .any => (k :: k' :: ks)[draw % (ks.length + 2)]?

/-- A key's index as the byte stored in `V[x]` (R166). -/
def keyByte (k : Reg) : Byte := BitVec.ofNat 8 k.val

end Sys2Proof.Machine
end

