-- ==== Sys2Proof/Machine/ControlFlow.lean ====
section
/-! DEFINITION. The control-transfer instructions (R101 to R109). Every meaning of this folder takes the state at the
start of the STEP (pc = pc0, R27) and answers the state after it. -/

namespace Sys2Proof.Machine

/-- SYS nnn (R101): raises UnknownOpcode, `info` being the word. -/
def execSys (nnn : Addr) (s : State) : Host.Outcome State Fault Refusal :=
  settle (.sys nnn) s (.error ⟨.unknownOpcode, (encode (.sys nnn)).toNat⟩)

/-- RET (R102): pops the call stack into pc. -/
def execRet (s : State) : Host.Outcome State Fault Refusal :=
  settle .ret s (s.pop.map (fun popped => popped.2.goto popped.1))

/-- JP nnn (R103). -/
def execJp (nnn : Addr) (s : State) : Host.Outcome State Fault Refusal :=
  .next (s.goto (zextAddr nnn))

/-- CALL nnn (R104): pushes pc0 + 2, then jumps. -/
def execCall (nnn : Addr) (s : State) : Host.Outcome State Fault Refusal :=
  settle (.call nnn) s ((s.push s.nextPc).map (fun t => t.goto (zextAddr nnn)))

/-- SE Vx, kk (R105). -/
def execSeImm (x : Reg) (kk : Byte) (s : State) : Host.Outcome State Fault Refusal :=
  .next (s.skipIf (s.reg x == kk))

/-- SNE Vx, kk (R106). -/
def execSneImm (x : Reg) (kk : Byte) (s : State) : Host.Outcome State Fault Refusal :=
  .next (s.skipIf (s.reg x != kk))

/-- SE Vx, Vy (R107). -/
def execSeReg (x y : Reg) (s : State) : Host.Outcome State Fault Refusal :=
  .next (s.skipIf (s.reg x == s.reg y))

/-- SNE Vx, Vy (R108). -/
def execSneReg (x y : Reg) (s : State) : Host.Outcome State Fault Refusal :=
  .next (s.skipIf (s.reg x != s.reg y))

/-- JP V0, nnn (R109): not masked; an address above 0xFFE faults at the next fetch. -/
def execJpV0 (nnn : Addr) (s : State) : Host.Outcome State Fault Refusal :=
  .next (s.goto (jumpOffset s nnn))

end Sys2Proof.Machine
end

