-- ==== Sys2Proof/Machine/Compositor.lean ====
section
/-! DEFINITION. The Display Compositor (R150, R152): which pixels a sprite toggles, and the XOR with collision. -/

namespace Sys2Proof.Machine

/-- `fb[yy][xx]` (R9, R35); off outside the grid. -/
def pixelOn (fb : Vector PixelRow 32) (yy xx : Nat) : Bool :=
  if h : yy < 32 then fb[yy].getLsbD xx else false

/-- `fb[yy][xx] <- fb[yy][xx] ^ 1` (R152), for a position on the grid. -/
def togglePixel (fb : Vector PixelRow 32) (yy xx : Nat) : Vector PixelRow 32 :=
  if h : yy < 32 then fb.set yy (fb[yy] ^^^ BitVec.twoPow 64 xx) else fb

/-- Bit `k` of the framebuffer output (R40): row k / 64, column k % 64. -/
def outputPixel (o : Outputs) (k : Nat) : Bool := pixelOn o.fb (k / 64) (k % 64)

/-- Where a pixel at coordinates (py, px) lands (R152): reduced modulo 32 and 64 under `wrap`, dropped when off the grid
under `clip`. -/
def landing (policy : Config.EdgePolicy) (py px : Nat) : Option (Nat × Nat) :=
  match policy with
  | .wrap => some (py % 32, px % 64)
  | .clip => if px ≤ 63 ∧ py ≤ 31 then some (py, px) else none

/-- The positions the set bits of one sprite byte toggle: bit 7 - c at column x0 + c (R152). -/
def rowCells (policy : Config.EdgePolicy) (x0 py : Nat) (b : Byte) : List (Nat × Nat) :=
  (List.range 8).filterMap (fun c => if b.getLsbD (7 - c) then landing policy py (x0 + c) else none)

/-- The positions a sprite toggles, row by row: sprite row r at row y0 + r (R152). -/
def spriteCells (policy : Config.EdgePolicy) (x0 y0 : Nat) : List Byte → List (Nat × Nat)
  | [] => []
  | b :: bs => rowCells policy x0 y0 b ++ spriteCells policy x0 (y0 + 1) bs

/-- A framebuffer being drawn on, with the collision found so far (R152). -/
structure Canvas where
  fb        : Vector PixelRow 32
  collision : Bool
  deriving DecidableEq, Repr

/-- One set sprite bit on the grid (R152): a pixel already on raises the collision; the pixel is toggled. -/
def Canvas.plot (d : Canvas) (cell : Nat × Nat) : Canvas :=
  { fb := togglePixel d.fb cell.1 cell.2, collision := d.collision || pixelOn d.fb cell.1 cell.2 }

/-- Draws a sprite's cells, the collision starting at 0 (R152). -/
def composite (fb : Vector PixelRow 32) (cells : List (Nat × Nat)) : Canvas :=
  cells.foldl Canvas.plot { fb := fb, collision := false }

/-- The framebuffer with every pixel off (R151). -/
def blankFb : Vector PixelRow 32 := Vector.replicate 32 0

end Sys2Proof.Machine
end

