-- ==== Sys2Proof/Machine/Flags.lean ====
section
/-! DEFINITION. The flag values of R25 and R120, and the write order of R26. -/

namespace Sys2Proof.Machine

/-- A flag as VF holds it: exactly 0 or 1 (R25). -/
def flagByte (b : Bool) : Byte := if b then 1 else 0

/-- ADD_REG (R127): the true sum exceeds 255. -/
def addFlag (a b : Byte) : Bool := decide (255 < a.toNat + b.toNat)

/-- SUB and SUBN (R128, R130): `a` is strictly greater than `b`; equal operands give 0 (R120). -/
def greaterFlag (a b : Byte) : Bool := decide (b.toNat < a.toNat)

/-- SHR (R129): bit 0, the bit shifted out. -/
def shiftRightFlag (a : Byte) : Bool := a.getLsbD 0

/-- SHL (R131): bit 7, the bit shifted out. -/
def shiftLeftFlag (a : Byte) : Bool := a.getLsbD 7

/-- `VF <- flag` (R25). -/
def State.setFlag (s : State) (b : Bool) : State := s.setReg 0xF (flagByte b)

/-- The writes of a flag-writing ALU instruction (R26, D7): the result to `V[x]`, then the flag to VF, which wins when
`x` = 0xF. -/
def State.setResultFlag (s : State) (x : Reg) (result : Byte) (flag : Bool) : State :=
  (s.setReg x result).setFlag flag

end Sys2Proof.Machine
end

