-- ==== Sys2Proof/Machine/Display.lean ====
section
/-! DEFINITION. The display instructions (R150 to R152). -/

namespace Sys2Proof.Machine

/-- The display after an instruction that drew (R36, R152): the framebuffer, and `dirty` set whether or not a pixel
changed (D10). -/
def State.present (s : State) (fb : Vector PixelRow 32) : State := { s with fb := fb, dirty := true }

/-- CLS (R151). -/
def execCls (s : State) : Host.Outcome State Fault Refusal :=
  .next (s.present blankFb).advance

/-- A DRW whose sprite bytes are read (R152): the origin is the whole Vx, Vy from before VF is written. -/
def State.draw (s : State) (x y : Reg) (sprite : List Byte) : State :=
  let drawn := composite s.fb (spriteCells s.params.edgePolicy (s.reg x).toNat (s.reg y).toNat sprite)
  ((s.present drawn.fb).setFlag drawn.collision).advance

/-- DRW Vx, Vy, n (R152): all n sprite bytes are bounds-checked first (R55, D9). -/
def execDrw (x y : Reg) (n : Fin 16) (s : State) : Host.Outcome State Fault Refusal :=
  settle (.drw x y n) s ((s.readRange (dataAddr s) n.val).map (s.draw x y))

end Sys2Proof.Machine
end

