-- ==== Sys2Proof/Machine/IndexMemory.lean ====
section
/-! DEFINITION. The index-register and memory instructions (R140 to R146). -/

namespace Sys2Proof.Machine

/-- LD I, nnn (R141). -/
def execLdI (nnn : Addr) (s : State) : Host.Outcome State Fault Refusal :=
  .next (s.setIndex (zextAddr nnn)).advance

/-- ADD I, Vx (R142): modulo 65536, no flag. -/
def execAddI (x : Reg) (s : State) : Host.Outcome State Fault Refusal :=
  .next (s.setIndex (s.index + zextByte (s.reg x))).advance

/-- LD F, Vx (R143). -/
def execLdF (x : Reg) (s : State) : Host.Outcome State Fault Refusal :=
  .next (s.setIndex (glyphAddr s x)).advance

/-- LD B, Vx (R144): the three decimal digits to I, I + 1, I + 2. -/
def execLdB (x : Reg) (s : State) : Host.Outcome State Fault Refusal :=
  settle (.ldB x) s ((s.writeRange (dataAddr s) (bcdDigits (s.reg x))).map State.advance)

/-- LD [I], Vx (R145): V0..Vx to I..I + x. -/
def execStRegs (x : Reg) (s : State) : Host.Outcome State Fault Refusal :=
  settle (.stRegs x) s ((s.writeRange (dataAddr s) (regBlock s x)).map State.advance)

/-- LD Vx, [I] (R146): I..I + x to V0..Vx. -/
def execLdRegs (x : Reg) (s : State) : Host.Outcome State Fault Refusal :=
  settle (.ldRegs x) s ((s.readRange (dataAddr s) (x.val + 1)).map (fun bs => (s.setRegs bs).advance))

end Sys2Proof.Machine
end

