-- ==== Sys2Proof/Machine/KeysTimers.lean ====
section
/-! DEFINITION. The key and timer instructions (R160 to R166). -/

namespace Sys2Proof.Machine

/-- SKP Vx (R161). -/
def execSkp (x : Reg) (s : State) : Host.Outcome State Fault Refusal :=
  settle (.skp x) s ((keyPressed s (s.reg x)).map s.skipIf)

/-- SKNP Vx (R162). -/
def execSknp (x : Reg) (s : State) : Host.Outcome State Fault Refusal :=
  settle (.sknp x) s ((keyPressed s (s.reg x)).map (fun pressed => s.skipIf (!pressed)))

/-- LD Vx, DT (R163). -/
def execLdVxDt (x : Reg) (s : State) : Host.Outcome State Fault Refusal :=
  .next (s.setReg x s.dt).advance

/-- LD DT, Vx (R164). -/
def execLdDtVx (x : Reg) (s : State) : Host.Outcome State Fault Refusal :=
  .next ({ s with dt := s.reg x } : State).advance

/-- LD ST, Vx (R165). -/
def execLdStVx (x : Reg) (s : State) : Host.Outcome State Fault Refusal :=
  .next ({ s with st := s.reg x } : State).advance

/-- LD Vx, K (R166): with no key pressed the step changes nothing and the same instruction is fetched again; else the
index of the selected pressed key goes to `V[x]`. -/
def execLdVxK (x : Reg) (s : State) : Host.Outcome State Fault Refusal :=
  match selectKey s.params.keySelect (Config.keyDraw s.draws) (pressedKeys s.keys) with
  | none => .next s
  | some k => .next (s.useDraw.setReg x (keyByte k)).advance

end Sys2Proof.Machine
end

