-- ==== Sys2Proof/Machine/LoadAlu.lean ====
section
/-! DEFINITION. The register load, arithmetic, logic, shift and random instructions (R120 to R132). -/

namespace Sys2Proof.Machine

/-- An ALU instruction without a flag (R120): the result to `V[x]`, pc to pc0 + 2. -/
def State.loadReg (s : State) (x : Reg) (result : Byte) : State := (s.setReg x result).advance

/-- An ALU instruction with a flag (R120, R26): result, then flag, pc to pc0 + 2. -/
def State.loadRegFlag (s : State) (x : Reg) (result : Byte) (flag : Bool) : State :=
  (s.setResultFlag x result flag).advance

/-- LD Vx, kk (R121). -/
def execLdImm (x : Reg) (kk : Byte) (s : State) : Host.Outcome State Fault Refusal :=
  .next (s.loadReg x kk)

/-- ADD Vx, kk (R122): modulo 256, no flag. -/
def execAddImm (x : Reg) (kk : Byte) (s : State) : Host.Outcome State Fault Refusal :=
  .next (s.loadReg x (s.reg x + kk))

/-- LD Vx, Vy (R123). -/
def execLdReg (x y : Reg) (s : State) : Host.Outcome State Fault Refusal :=
  .next (s.loadReg x (s.reg y))

/-- OR Vx, Vy (R124): no flag. -/
def execOr (x y : Reg) (s : State) : Host.Outcome State Fault Refusal :=
  .next (s.loadReg x (s.reg x ||| s.reg y))

/-- AND Vx, Vy (R125): no flag. -/
def execAnd (x y : Reg) (s : State) : Host.Outcome State Fault Refusal :=
  .next (s.loadReg x (s.reg x &&& s.reg y))

/-- XOR Vx, Vy (R126): no flag. -/
def execXor (x y : Reg) (s : State) : Host.Outcome State Fault Refusal :=
  .next (s.loadReg x (s.reg x ^^^ s.reg y))

/-- ADD Vx, Vy (R127): sum modulo 256, VF the carry. -/
def execAddReg (x y : Reg) (s : State) : Host.Outcome State Fault Refusal :=
  .next (s.loadRegFlag x (s.reg x + s.reg y) (addFlag (s.reg x) (s.reg y)))

/-- SUB Vx, Vy (R128): Vx - Vy modulo 256, VF = 1 if Vx > Vy. -/
def execSub (x y : Reg) (s : State) : Host.Outcome State Fault Refusal :=
  .next (s.loadRegFlag x (s.reg x - s.reg y) (greaterFlag (s.reg x) (s.reg y)))

/-- SHR Vx (R129): VF the bit shifted out; `y` is ignored (R80). -/
def execShr (x _y : Reg) (s : State) : Host.Outcome State Fault Refusal :=
  .next (s.loadRegFlag x (s.reg x >>> 1) (shiftRightFlag (s.reg x)))

/-- SUBN Vx, Vy (R130): Vy - Vx modulo 256, VF = 1 if Vy > Vx. -/
def execSubn (x y : Reg) (s : State) : Host.Outcome State Fault Refusal :=
  .next (s.loadRegFlag x (s.reg y - s.reg x) (greaterFlag (s.reg y) (s.reg x)))

/-- SHL Vx (R131): VF the bit shifted out; `y` is ignored (R80). -/
def execShl (x _y : Reg) (s : State) : Host.Outcome State Fault Refusal :=
  .next (s.loadRegFlag x (s.reg x <<< 1) (shiftLeftFlag (s.reg x)))

/-- RND Vx, kk (R132): the free byte of this draw AND kk. -/
def execRnd (x : Reg) (kk : Byte) (s : State) : Host.Outcome State Fault Refusal :=
  .next (s.useDraw.loadReg x (Config.rnd s.draws &&& kk))

end Sys2Proof.Machine
end

