-- ==== Sys2Proof/Machine/Events.lean ====
section
/-! DEFINITION. The environment's events (R184 to R190). -/

namespace Sys2Proof.Machine

/-- TICK (R186): both timers count down, each saturating at 0. -/
def State.tick (s : State) : State :=
  { s with dt := if s.dt = 0 then 0 else s.dt - 1, st := if s.st = 0 then 0 else s.st - 1 }

/-- KEYS(k) (R187): all 16 keys are replaced at once. -/
def State.setKeys (s : State) (k : BitVec 16) : State := { s with keys := k }

/-- FRAME_ACK (R188): the display has consumed the frame `s.fb`; `dirty` is cleared. -/
def State.frameAck (s : State) : State := { s with dirty := false }

/-- RESET (R189): every state element at its reset value (R200); the parameters, the environment's remaining events and
the count of used draws go on (log 2, log 3, log 6). -/
def State.resetEvent (s : State) : State := State.resetWith s.params s.draws s.events

/-- The largest ROM the loader may hand over (R5). -/
def romMax : Nat := 3584

/-- LOAD(bytes) (R184): the bytes to 0x200 upward; a ROM longer than ROM_MAX is refused whole and its length reported to
the loader (R178). A LOAD outside its contract is refused by name (S10, log 5). -/
def State.loadEvent (s : State) (bytes : List Byte) : Host.Outcome State Fault Refusal :=
  if s.loadOpen then
    if romMax < bytes.length then .next { s with loadRefusal := some bytes.length, loadOpen := false }
    else .next { s.writeBytes 0x200 bytes with loadOpen := false }
  else .refused .loadOutsideContract

/-- The state in which a STEP executes: a LOAD is out of its contract from the first STEP on (R184, log 5). -/
def State.begin (s : State) : State := { s with loadOpen := false }

/-- STEP (R100, R174, R185): nothing in the faulted state; else fetch, decode and execute one instruction, taking the
first failure in the order of R176. -/
def State.stepEvent (s : State) : Host.Outcome State Fault Refusal :=
  match s.fault with
  | some _ => .next s
  | none =>
    match s.fetchWord with
    | .error r => .next (s.begin.takeFault r 0)
    | .ok w =>
      match decode w with
      | .error _ => .next (s.begin.takeFault ⟨.unknownOpcode, w.toNat⟩ w)
      | .ok i => exec i s.begin

/-- One event of the environment (R184 to R190). -/
def runEvent (e : Event) (s : State) : Host.Outcome State Fault Refusal :=
  match e with
  | .reset => .next s.resetEvent
  | .load bytes => s.loadEvent bytes
  | .step => s.stepEvent
  | .tick => .next s.tick
  | .keys k => .next (s.setKeys k)
  | .frameAck => .next s.frameAck

/-- The next event (log 2): the head of the environment's queue, or STEP when none is queued. -/
def nextEvent (s : State) : Event := s.events.head?.getD .step

/-- The state once its next event is taken off the queue. -/
def State.dequeue (s : State) : State := { s with events := s.events.tail }

/-- The fetch address an instruction is placed at by `State.withFetchWord`: pc where a fetch is in bounds (R54), else
the reset pc. -/
def placeAddr (s : State) : Word := if s.pc.toNat ≤ 0xFFE then s.pc else 0x200

/-- A state whose next STEP fetches the word `w` (log 12): its two bytes at the fetch address, high byte first (R53). It
stands for the LOAD of a program: the next event is STEP, no fault is latched, and the LOAD contract is used up. -/
def placeWord (s : State) (w : Word) : State :=
  { s.writeBytes (placeAddr s).toNat [highByte w, lowByte w] with
      pc := placeAddr s, fault := none, events := [], loadOpen := false }

end Sys2Proof.Machine
end

