-- ==== Sys2Proof/Machine/Step.lean ====
section
/-! DEFINITION. One step of the machine: the environment's next event (R59, R184 to R190). -/

namespace Sys2Proof.Machine

/-- One atomic event (R59): the next of the environment's queue, or a STEP when none is queued (log 2). -/
def step (s : State) : Host.Outcome State Fault Refusal := runEvent (nextEvent s) s.dequeue

/-- `s` with the opcode-table word `w` of `nbits` bits placed where the very next step fetches it (log 12). -/
def State.withFetchWord (s : State) (nbits w : Nat) : State := placeWord s (BitVec.ofNat 16 (w % 2 ^ nbits))

end Sys2Proof.Machine
end

