-- ==== Sys2Proof/Safety.lean ====
section
/-! DEFINITION. The terms the statements use: the machine's invariant (R41), the spec's tables of what an instruction may
raise, write and store, and when two states differ only where no program can look. -/

namespace Sys2Proof.Safety

open Sys2Proof.Machine

/-- What a latched fault says (R172, R173, R184): pc is the faulting instruction's address, the cause is one a STEP
raises, `info` fits, and no LOAD is in its contract. -/
structure LatchOk (s : State) (f : FaultRecord) : Prop where
  pc0_eq   : f.pc0 = s.pc
  cause_ne : f.cause ≠ .romTooLarge
  info_le  : f.info ≤ 0xFFFF
  load_off : s.loadOpen = false

/-- The invariant of R41 (the bounds the types do not already keep), with what it rests on: memory in its canonical form
and inside 0x000 to 0xFFF, pc at most 0x10FE, every live return address at most 0x1000, a truthful latch. -/
structure Inv (s : State) : Prop where
  mem_wf   : Memory.wf s.params s.mem
  pc_le    : s.pc.toNat ≤ 0x10FE
  stack_le : ∀ k : Fin 16, k.val < s.sp.val → s.stack[k.val].toNat ≤ 0x1000
  latch_ok : ∀ f, s.fault = some f → LatchOk s f

/-- The check of its own that an instruction fails in a state, by the table of R171: the cause and the recorded value. -/
def raisesIn (i : Instr) (s : State) : Option Raised :=
  let bounds (n : Nat) : Option Raised :=
    if 1 ≤ n ∧ 0xFFF < s.index.toNat + (n - 1) then some ⟨.outOfBoundsAccess, max s.index.toNat 0x1000⟩ else none
  let key (x : Reg) : Option Raised :=
    if 15 < (s.reg x).toNat then some ⟨.keyIndexOutOfRange, (s.reg x).toNat⟩ else none
  match i with
  | .sys nnn => some ⟨.unknownOpcode, nnn.toNat⟩
  | .call _ => if s.sp.val = 16 then some ⟨.stackOverflow, 0⟩ else none
  | .ret => if s.sp.val = 0 then some ⟨.stackUnderflow, 0⟩ else none
  | .drw _ _ n => bounds n.val
  | .ldB _ => bounds 3
  | .stRegs x => bounds (x.val + 1)
  | .ldRegs x => bounds (x.val + 1)
  | .skp x => key x
  | .sknp x => key x
  | .cls | .jp _ | .seImm _ _ | .sneImm _ _ | .seReg _ _ | .ldImm _ _ | .addImm _ _ | .ldReg _ _ | .or _ _
  | .and _ _ | .xor _ _ | .addReg _ _ | .sub _ _ | .shr _ _ | .subn _ _ | .shl _ _ | .sneReg _ _ | .ldI _
  | .jpV0 _ | .rnd _ _ | .ldVxDt _ | .ldVxK _ | .ldDtVx _ | .ldStVx _ | .addI _ | .ldF _ => none

/-- pc after an instruction that completes, by the table of R28 (pc0 is `s.pc`). -/
def pcAfter (i : Instr) (s : State) : Word :=
  match i with
  | .jp nnn => BitVec.ofNat 16 nnn.toNat
  | .call nnn => BitVec.ofNat 16 nnn.toNat
  | .ret => (s.stack[s.sp.val - 1]?).getD 0
  | .jpV0 nnn => BitVec.ofNat 16 (nnn.toNat + (s.reg 0).toNat)
  | .seImm x kk => if s.reg x = kk then s.pc + 4 else s.pc + 2
  | .sneImm x kk => if s.reg x ≠ kk then s.pc + 4 else s.pc + 2
  | .seReg x y => if s.reg x = s.reg y then s.pc + 4 else s.pc + 2
  | .sneReg x y => if s.reg x ≠ s.reg y then s.pc + 4 else s.pc + 2
  | .skp x => if s.keys.getLsbD (s.reg x).toNat = true then s.pc + 4 else s.pc + 2
  | .sknp x => if s.keys.getLsbD (s.reg x).toNat = false then s.pc + 4 else s.pc + 2
  | .ldVxK _ => if s.keys = 0 then s.pc else s.pc + 2
  | .sys _ | .cls | .ldImm _ _ | .addImm _ _ | .ldReg _ _ | .or _ _ | .and _ _ | .xor _ _ | .addReg _ _ | .sub _ _
  | .shr _ _ | .subn _ _ | .shl _ _ | .ldI _ | .rnd _ _ | .drw _ _ _ | .ldVxDt _ | .ldDtVx _ | .ldStVx _
  | .addI _ | .ldF _ | .ldB _ | .stRegs _ | .ldRegs _ => s.pc + 2

/-- The general registers an instruction may write (R22, R25). -/
def mayWriteReg (i : Instr) (r : Reg) : Bool :=
  match i with
  | .ldImm x _ | .addImm x _ | .ldReg x _ | .or x _ | .and x _ | .xor x _ | .rnd x _ | .ldVxDt x | .ldVxK x => r == x
  | .addReg x _ | .sub x _ | .shr x _ | .subn x _ | .shl x _ => r == x || r == 15
  | .drw _ _ _ => r == 15
  | .ldRegs x => decide (r.val ≤ x.val)
  | .sys _ | .cls | .ret | .jp _ | .call _ | .seImm _ _ | .sneImm _ _ | .seReg _ _ | .sneReg _ _ | .ldI _ | .jpV0 _
  | .skp _ | .sknp _ | .ldDtVx _ | .ldStVx _ | .addI _ | .ldF _ | .ldB _ | .stRegs _ => false

/-- The bytes an instruction stores to: an address and a count (R56, R58). The address is `dataAddr s`, the one the
meanings of LD_B and ST_REGS store at. -/
def storeSpan (i : Instr) (s : State) : Nat × Nat :=
  match i with
  | .ldB _ => (dataAddr s, 3)
  | .stRegs x => (dataAddr s, x.val + 1)
  | .sys _ | .cls | .ret | .jp _ | .call _ | .seImm _ _ | .sneImm _ _ | .seReg _ _ | .ldImm _ _ | .addImm _ _
  | .ldReg _ _ | .or _ _ | .and _ _ | .xor _ _ | .addReg _ _ | .sub _ _ | .shr _ _ | .subn _ _ | .shl _ _
  | .sneReg _ _ | .ldI _ | .jpV0 _ | .rnd _ _ | .drw _ _ _ | .skp _ | .sknp _ | .ldVxDt _ | .ldVxK _ | .ldDtVx _
  | .ldStVx _ | .addI _ | .ldF _ | .ldRegs _ => (0, 0)

/-- Two states that differ at most in dead stack entries (R30, R205), the ones at index SP and above. -/
def SameLive (s t : State) : Prop :=
  { t with stack := s.stack } = s ∧ ∀ k : Fin 16, k.val < s.sp.val → t.stack[k.val] = s.stack[k.val]

/-- Two states that differ at most in what no instruction reads: `dirty` (R36) and ST (R33). -/
def SameToProgram (s t : State) : Prop := { t with dirty := s.dirty, st := s.st } = s

/-- Two outcomes that agree up to a relation on next states. -/
def OutcomesAgree (rel : State → State → Prop) :
    Host.Outcome State Fault Refusal → Host.Outcome State Fault Refusal → Prop
  | .next s, .next t => rel s t
  | .refused q, .refused r => q = r
  | .fault q, _ => nomatch q
  | _, .fault r => nomatch r
  | .next _, .refused _ => False
  | .refused _, .next _ => False

/-- The word numbered `w` is decoded as `i`: the 'Encoding' line of an instruction rule. -/
def EncodedAs (i : Instr) (w : Nat) : Prop := decode (BitVec.ofNat 16 w) = .ok i

/-- A program that has ended (R192, D31): no fault, and the word at pc is a JP to pc. -/
def Ended (s : State) : Prop :=
  s.fault = none ∧ s.pc.toNat ≤ 0xFFE ∧ ∃ nnn : Addr, s.pc.toNat = nnn.toNat ∧
    wordOfBytes (s.readByte s.pc.toNat) (s.readByte (s.pc.toNat + 1)) = BitVec.ofNat 16 (0x1000 + nnn.toNat)

/-- The words that raise UnknownOpcode, by the table of R79. -/
def UnknownWord (w : Word) : Prop :=
  (field w 15 12 = 0x0 ∧ w ≠ 0x00E0#16 ∧ w ≠ 0x00EE#16) ∨
  (field w 15 12 = 0x5 ∧ field w 3 0 ≠ 0) ∨
  (field w 15 12 = 0x8 ∧ field w 3 0 ∈ [0x8, 0x9, 0xA, 0xB, 0xC, 0xD, 0xF]) ∨
  (field w 15 12 = 0x9 ∧ field w 3 0 ≠ 0) ∨
  (field w 15 12 = 0xE ∧ field w 7 0 ∉ [0x9E, 0xA1]) ∨
  (field w 15 12 = 0xF ∧ field w 7 0 ∉ [0x07, 0x0A, 0x15, 0x18, 0x1E, 0x29, 0x33, 0x55, 0x65])

/-- DRW Vx, Vy, n toggles the pixel at column `xx`, row `yy` (R152): some set bit of sprite row `r`, column offset `c`,
lands on it, as it stands under `clip`, modulo 64 and 32 under `wrap`. -/
def SpriteHits (s : State) (x y : Reg) (n : Fin 16) (yy xx : Nat) : Prop :=
  ∃ r < n.val, ∃ c < 8, (s.readByte (s.index.toNat + r)).getLsbD (7 - c) = true ∧
    match s.params.edgePolicy with
    | .clip => yy = (s.reg y).toNat + r ∧ xx = (s.reg x).toNat + c
    | .wrap => yy = ((s.reg y).toNat + r) % 32 ∧ xx = ((s.reg x).toNat + c) % 64

/-- DRW's collision (R25, R152): some pixel it toggles was on before. -/
def SpriteCollides (s : State) (x y : Reg) (n : Fin 16) : Prop :=
  ∃ yy < 32, ∃ xx < 64, SpriteHits s x y n yy xx ∧ pixelOn s.fb yy xx = true

end Sys2Proof.Safety
end

