-- ==== Sys2Proof/Certificates/Slice0/Obligations.lean ====
section
/-! DEFINITION. The statements for the provers. Each docstring names the rule, or the section and the spec's own
decision, that it formalises. A frame is written as a record equation: the state after, with the named fields put back,
is the state before. -/

open Sys2Proof Sys2Proof.Machine Sys2Proof.Safety

/-! ### Encoding -/

/-- Every well-formed instruction's word decodes to it, every operand at every value (files 30, sections 1 to 3). -/
def Obligations.DecodeEncodeRoundTrip : Prop :=
  ∀ i : Instr, i.wellFormed = true → decode (encode i) = .ok i

/-- Every word that decodes is the word of its instruction: no bit is dropped, and no two words share an instruction
(file 30, sections 1 to 3). -/
def Obligations.DecodedWordEncodesBack : Prop :=
  ∀ (w : Word) (i : Instr), decode w = .ok i → i.wellFormed = true ∧ encode i = w

/-- The decoder and the opcode table agree on every word: the rows that select it are exactly the one row of the decoded
instruction, or none where the decoder rejects (file 30, section 6). -/
def Obligations.OpcodeTableSelectsDecodedRow : Prop :=
  ∀ w : Word, (opcodeTable.filter (fun row => row.selects w)).map OpcodeRow.mnemonic =
    match decode w with
    | .ok i => [i.mnemonic]
    | .error _ => []

/-- One word of each family, written out from the encodings of the instruction rules. -/
def Obligations.SampleWordsDecode : Prop :=
  decode 0x0123#16 = .ok (.sys 0x123) ∧ decode 0x00E0#16 = .ok .cls ∧ decode 0x1ABC#16 = .ok (.jp 0xABC) ∧
  decode 0x332A#16 = .ok (.seImm 3 0x2A) ∧ decode 0x8014#16 = .ok (.addReg 0 1) ∧
  decode 0xA2F0#16 = .ok (.ldI 0x2F0) ∧ decode 0xD012#16 = .ok (.drw 0 1 2) ∧
  decode 0xE59E#16 = .ok (.skp 5) ∧ decode 0xF265#16 = .ok (.ldRegs 2)

/-! ### The step cycle -/

/-- R100: with no fault latched, STEP the next event and the bytes at pc decoding to an instruction, a step is that
instruction's exec, at the state with the event taken off the queue and the LOAD contract closed (log 2, log 5). -/
def Obligations.StepRunsDecodedInstruction : Prop :=
  ∀ (s : State) (i : Instr), s.fault = none → nextEvent s = .step → s.pc.toNat ≤ 0xFFE →
    decode (wordOfBytes (s.readByte s.pc.toNat) (s.readByte (s.pc.toNat + 1))) = .ok i →
    step s = exec i { s with events := s.events.tail, loadOpen := false }

/-- File 20, section 3, with the record of decision D3: a STEP with pc above 0xFFE raises OutOfBoundsAccess before
anything else, its info 0x1000 if pc = 0xFFF, else pc, its word 0; nothing else changes but the model's own event queue
(log 2) and LOAD contract (log 5). -/
def Obligations.FetchOutOfBoundsFaults : Prop :=
  ∀ s : State, s.fault = none → nextEvent s = .step → 0xFFE < s.pc.toNat →
    step s = .next { s with
      events := s.events.tail, loadOpen := false
      fault := some ⟨.outOfBoundsAccess, s.pc, 0, if s.pc.toNat = 0xFFF then 0x1000 else s.pc.toNat⟩ }

/-- File 30, section 4 (decisions D5, D6): a STEP that fetches a word latches UnknownOpcode exactly for the listed words,
with the word as the record's word and info (decision D3); nothing else changes but the model's own event queue (log 2)
and LOAD contract (log 5). -/
def Obligations.UnknownWordsFault : Prop :=
  ∀ (s : State) (w : Word), s.fault = none → nextEvent s = .step → s.pc.toNat ≤ 0xFFE →
    wordOfBytes (s.readByte s.pc.toNat) (s.readByte (s.pc.toNat + 1)) = w →
    (UnknownWord w → step s = .next { s with
      events := s.events.tail, loadOpen := false, fault := some ⟨.unknownOpcode, s.pc, w, w.toNat⟩ }) ∧
    (¬ UnknownWord w → ∀ t f, step s = .next t → t.fault = some f → f.cause ≠ .unknownOpcode)

/-- File 60, section 1 (decisions D1, D21): in the faulted state a STEP changes nothing but the model's own event queue
(log 2), and no event but RESET changes the latch. -/
def Obligations.FaultLatchIsSticky : Prop :=
  ∀ (s : State) (f : FaultRecord), s.fault = some f →
    (nextEvent s = .step → step s = .next { s with events := s.events.tail }) ∧
    (∀ t, nextEvent s ≠ .reset → step s = .next t → t.fault = some f)

/-! ### Control flow -/

/-- File 40, section 2 (decision D6): SYS raises UnknownOpcode with the word as info, and changes nothing else. -/
def Obligations.SysRaisesUnknownOpcode : Prop :=
  ∀ (s : State) (nnn : Addr), exec (.sys nnn) s = .next { s with
    fault := some ⟨.unknownOpcode, s.pc, BitVec.ofNat 16 nnn.toNat, nnn.toNat⟩ }

/-- R102: RET. With an empty stack it raises StackUnderflow and changes no other state. -/
def Obligations.RetPopsIntoPc : Prop :=
  EncodedAs .ret 0x00EE ∧
  (∀ (s : State) (h : 0 < s.sp.val), ∃ t, exec .ret s = .next t ∧ t.sp.val = s.sp.val - 1 ∧
    t.pc = s.stack[s.sp.val - 1]'(by omega) ∧ { t with pc := s.pc, sp := s.sp } = s) ∧
  (∀ s : State, s.sp = 0 → ∃ t f, exec .ret s = .next t ∧ t.fault = some f ∧ f.cause = .stackUnderflow ∧
    { t with fault := s.fault } = s)

/-- R103: JP. -/
def Obligations.JpSetsPc : Prop :=
  (∀ nnn : Addr, EncodedAs (.jp nnn) (0x1000 + nnn.toNat)) ∧
  ∀ (s : State) (nnn : Addr), ∃ t, exec (.jp nnn) s = .next t ∧ t.pc.toNat = nnn.toNat ∧ { t with pc := s.pc } = s

/-- R104: CALL. With a full stack it raises StackOverflow and changes no other state. -/
def Obligations.CallPushesReturnAddress : Prop :=
  (∀ nnn : Addr, EncodedAs (.call nnn) (0x2000 + nnn.toNat)) ∧
  (∀ (s : State) (nnn : Addr) (h : s.sp.val < 16), ∃ t, exec (.call nnn) s = .next t ∧
    t.stack[s.sp.val] = s.pc + 2 ∧ (∀ k : Fin 16, k.val ≠ s.sp.val → t.stack[k.val] = s.stack[k.val]) ∧
    t.sp.val = s.sp.val + 1 ∧ t.pc.toNat = nnn.toNat ∧ { t with pc := s.pc, sp := s.sp, stack := s.stack } = s) ∧
  (∀ (s : State) (nnn : Addr), s.sp.val = 16 → ∃ t f, exec (.call nnn) s = .next t ∧ t.fault = some f ∧
    f.cause = .stackOverflow ∧ { t with fault := s.fault } = s)

/-- R105, R106: SE Vx, kk and SNE Vx, kk. -/
def Obligations.SkipsOnImmediate : Prop :=
  (∀ (x : Reg) (kk : Byte), EncodedAs (.seImm x kk) (0x3000 + 256 * x.val + kk.toNat) ∧
    EncodedAs (.sneImm x kk) (0x4000 + 256 * x.val + kk.toNat)) ∧
  ∀ (s : State) (x : Reg) (kk : Byte),
    (∃ t, exec (.seImm x kk) s = .next t ∧ t.pc = (if s.reg x = kk then s.pc + 4 else s.pc + 2) ∧
      { t with pc := s.pc } = s) ∧
    (∃ t, exec (.sneImm x kk) s = .next t ∧ t.pc = (if s.reg x = kk then s.pc + 2 else s.pc + 4) ∧
      { t with pc := s.pc } = s)

/-- File 40, section 6 (decision D5 for the low nibble): SE Vx, Vy and SNE Vx, Vy; a nonzero low nibble is rejected. -/
def Obligations.SkipsOnRegisters : Prop :=
  (∀ x y : Reg, EncodedAs (.seReg x y) (0x5000 + 256 * x.val + 16 * y.val) ∧
    EncodedAs (.sneReg x y) (0x9000 + 256 * x.val + 16 * y.val)) ∧
  (∀ w : Word, (field w 15 12 = 0x5 ∨ field w 15 12 = 0x9) → field w 3 0 ≠ 0 → decode w = .error (.unknownOpcode w)) ∧
  ∀ (s : State) (x y : Reg),
    (∃ t, exec (.seReg x y) s = .next t ∧ t.pc = (if s.reg x = s.reg y then s.pc + 4 else s.pc + 2) ∧
      { t with pc := s.pc } = s) ∧
    (∃ t, exec (.sneReg x y) s = .next t ∧ t.pc = (if s.reg x = s.reg y then s.pc + 2 else s.pc + 4) ∧
      { t with pc := s.pc } = s)

/-- File 40, section 7 (decision D11, no masking): JP V0, nnn. -/
def Obligations.JpV0AddsV0 : Prop :=
  ∀ (s : State) (nnn : Addr), ∃ t, exec (.jpV0 nnn) s = .next t ∧
    t.pc.toNat = nnn.toNat + (s.reg 0).toNat ∧ { t with pc := s.pc } = s

/-! ### Load and ALU -/

/-- R121: LD Vx, kk. -/
def Obligations.LdImmLoadsImmediate : Prop :=
  (∀ (x : Reg) (kk : Byte), EncodedAs (.ldImm x kk) (0x6000 + 256 * x.val + kk.toNat)) ∧
  ∀ (s : State) (x : Reg) (kk : Byte), ∃ t, exec (.ldImm x kk) s = .next t ∧ t.reg x = kk ∧
    (∀ r, r ≠ x → t.reg r = s.reg r) ∧ t.pc = s.pc + 2 ∧ { t with v := s.v, pc := s.pc } = s

/-- R122: ADD Vx, kk, VF being written only as the destination. -/
def Obligations.AddImmWrapsWithoutFlag : Prop :=
  (∀ (x : Reg) (kk : Byte), EncodedAs (.addImm x kk) (0x7000 + 256 * x.val + kk.toNat)) ∧
  ∀ (s : State) (x : Reg) (kk : Byte), ∃ t, exec (.addImm x kk) s = .next t ∧
    (t.reg x).toNat = ((s.reg x).toNat + kk.toNat) % 256 ∧
    (∀ r, r ≠ x → t.reg r = s.reg r) ∧ t.pc = s.pc + 2 ∧ { t with v := s.v, pc := s.pc } = s

/-- R123: LD Vx, Vy. -/
def Obligations.LdRegCopiesRegister : Prop :=
  (∀ x y : Reg, EncodedAs (.ldReg x y) (0x8000 + 256 * x.val + 16 * y.val)) ∧
  ∀ (s : State) (x y : Reg), ∃ t, exec (.ldReg x y) s = .next t ∧ t.reg x = s.reg y ∧
    (∀ r, r ≠ x → t.reg r = s.reg r) ∧ t.pc = s.pc + 2 ∧ { t with v := s.v, pc := s.pc } = s

/-- R124, R125, R126: OR, AND and XOR, bit by bit, with no flag. -/
def Obligations.LogicIsBitwiseWithoutFlag : Prop :=
  (∀ x y : Reg, EncodedAs (.or x y) (0x8001 + 256 * x.val + 16 * y.val) ∧
    EncodedAs (.and x y) (0x8002 + 256 * x.val + 16 * y.val) ∧
    EncodedAs (.xor x y) (0x8003 + 256 * x.val + 16 * y.val)) ∧
  ∀ (s : State) (x y : Reg), ∃ a b c,
    (exec (.or x y) s = .next a ∧ ∀ k < 8,
      (a.reg x).getLsbD k = ((s.reg x).getLsbD k || (s.reg y).getLsbD k)) ∧
    (exec (.and x y) s = .next b ∧ ∀ k < 8,
      (b.reg x).getLsbD k = ((s.reg x).getLsbD k && (s.reg y).getLsbD k)) ∧
    (exec (.xor x y) s = .next c ∧ ∀ k < 8,
      (c.reg x).getLsbD k = ((s.reg x).getLsbD k ^^ (s.reg y).getLsbD k)) ∧
    ∀ t ∈ [a, b, c], (∀ r, r ≠ x → t.reg r = s.reg r) ∧ t.pc = s.pc + 2 ∧ { t with v := s.v, pc := s.pc } = s

/-- File 41, section 4 (decision D7 for x = 0xF, where VF ends as the flag): ADD Vx, Vy. -/
def Obligations.AddRegSetsCarry : Prop :=
  ∀ (s : State) (x y : Reg), ∃ t, exec (.addReg x y) s = .next t ∧
    (x ≠ 15 → (t.reg x).toNat = ((s.reg x).toNat + (s.reg y).toNat) % 256) ∧
    (t.reg 15).toNat = (if 255 < (s.reg x).toNat + (s.reg y).toNat then 1 else 0) ∧
    (∀ r, r ≠ x → r ≠ 15 → t.reg r = s.reg r) ∧ t.pc = s.pc + 2 ∧ { t with v := s.v, pc := s.pc } = s

/-- File 41, section 4 (decision D7 for x = 0xF): SUB and SUBN, the flag strict (equal operands give 0). -/
def Obligations.SubtractionsSetStrictFlag : Prop :=
  ∀ (s : State) (x y : Reg), ∃ t u, exec (.sub x y) s = .next t ∧ exec (.subn x y) s = .next u ∧
    (x ≠ 15 → (t.reg x).toNat = ((s.reg x).toNat + 256 - (s.reg y).toNat) % 256) ∧
    (t.reg 15).toNat = (if (s.reg y).toNat < (s.reg x).toNat then 1 else 0) ∧
    (x ≠ 15 → (u.reg x).toNat = ((s.reg y).toNat + 256 - (s.reg x).toNat) % 256) ∧
    (u.reg 15).toNat = (if (s.reg x).toNat < (s.reg y).toNat then 1 else 0) ∧
    ∀ a ∈ [t, u], (∀ r, r ≠ x → r ≠ 15 → a.reg r = s.reg r) ∧ a.pc = s.pc + 2 ∧ { a with v := s.v, pc := s.pc } = s

/-- File 41, section 4 (decisions D7 and D29: y is ignored): SHR and SHL. -/
def Obligations.ShiftsSetShiftedOutBit : Prop :=
  ∀ (s : State) (x y : Reg), ∃ t u, exec (.shr x y) s = .next t ∧ exec (.shl x y) s = .next u ∧
    (x ≠ 15 → (t.reg x).toNat = (s.reg x).toNat / 2) ∧ (t.reg 15).toNat = (s.reg x).toNat % 2 ∧
    (x ≠ 15 → (u.reg x).toNat = (s.reg x).toNat * 2 % 256) ∧ (u.reg 15).toNat = (s.reg x).toNat / 128 ∧
    ∀ a ∈ [t, u], (∀ r, r ≠ x → r ≠ 15 → a.reg r = s.reg r) ∧ a.pc = s.pc + 2 ∧ { a with v := s.v, pc := s.pc } = s

/-- File 41, section 5 (decision D23, log 3): RND, for whatever the free byte of this draw is; the draw is used up. -/
def Obligations.RndMasksTheFreeByte : Prop :=
  ∀ (s : State) (x : Reg) (kk : Byte), ∃ t, exec (.rnd x kk) s = .next t ∧
    t.reg x = Config.rnd s.draws &&& kk ∧ t.draws = s.draws + 1 ∧
    (∀ r, r ≠ x → t.reg r = s.reg r) ∧ t.pc = s.pc + 2 ∧ { t with v := s.v, pc := s.pc, draws := s.draws } = s

/-- File 10, section 3 (the table of R25; decision D7 for x = 0xF): the value of VF after each of the six flag-writing
instructions, for every x and y, and that every other instruction leaves VF unchanged unless VF is its destination. -/
def Obligations.FlagsByTable : Prop :=
  (∀ (s : State) (x y : Reg), ∃ a b c d e,
    exec (.addReg x y) s = .next a ∧ a.reg 15 = (if 255 < (s.reg x).toNat + (s.reg y).toNat then 1 else 0) ∧
    exec (.sub x y) s = .next b ∧ b.reg 15 = (if (s.reg y).toNat < (s.reg x).toNat then 1 else 0) ∧
    exec (.shr x y) s = .next c ∧ c.reg 15 = (if (s.reg x).getLsbD 0 then 1 else 0) ∧
    exec (.subn x y) s = .next d ∧ d.reg 15 = (if (s.reg x).toNat < (s.reg y).toNat then 1 else 0) ∧
    exec (.shl x y) s = .next e ∧ e.reg 15 = (if (s.reg x).getLsbD 7 then 1 else 0)) ∧
  (∀ (s : State) (x y : Reg) (n : Fin 16), (n.val = 0 ∨ s.index.toNat + n.val ≤ 0x1000) →
    ∃ t, exec (.drw x y n) s = .next t ∧
      (SpriteCollides s x y n → t.reg 15 = 1) ∧ (¬ SpriteCollides s x y n → t.reg 15 = 0)) ∧
  (∀ (i : Instr) (s t : State), exec i s = .next t → mayWriteReg i 15 = false → t.reg 15 = s.reg 15)

/-! ### Index and memory -/

/-- R141: LD I, nnn. -/
def Obligations.LdILoadsIndex : Prop :=
  (∀ nnn : Addr, EncodedAs (.ldI nnn) (0xA000 + nnn.toNat)) ∧
  ∀ (s : State) (nnn : Addr), ∃ t, exec (.ldI nnn) s = .next t ∧ t.index.toNat = nnn.toNat ∧ t.pc = s.pc + 2 ∧
    { t with index := s.index, pc := s.pc } = s

/-- File 42, section 2 (decision D12: wrap at 16 bits, no flag): ADD I, Vx. -/
def Obligations.AddIWrapsAt16Bits : Prop :=
  ∀ (s : State) (x : Reg), ∃ t, exec (.addI x) s = .next t ∧
    t.index.toNat = (s.index.toNat + (s.reg x).toNat) % 65536 ∧ t.pc = s.pc + 2 ∧
    { t with index := s.index, pc := s.pc } = s

/-- File 42, section 2 (decision D14: the whole Vx, and FONT_BASE as the parameter of file 00): LD F, Vx. -/
def Obligations.LdFPointsToGlyph : Prop :=
  ∀ (s : State) (x : Reg), ∃ t, exec (.ldF x) s = .next t ∧
    t.index.toNat = s.params.fontBase.val + 5 * (s.reg x).toNat ∧ t.pc = s.pc + 2 ∧
    { t with index := s.index, pc := s.pc } = s

/-- File 42, section 3 (decisions D9, D30): LD B, Vx stores the three decimal digits at I, I + 1, I + 2. -/
def Obligations.LdBStoresDigits : Prop :=
  ∀ (s : State) (x : Reg), s.index.toNat + 2 ≤ 0xFFF → ∃ t, exec (.ldB x) s = .next t ∧
    (t.readByte s.index.toNat).toNat = (s.reg x).toNat / 100 ∧
    (t.readByte (s.index.toNat + 1)).toNat = (s.reg x).toNat / 10 % 10 ∧
    (t.readByte (s.index.toNat + 2)).toNat = (s.reg x).toNat % 10 ∧
    (∀ a, (a < s.index.toNat ∨ s.index.toNat + 2 < a) → t.readByte a = s.readByte a) ∧
    t.pc = s.pc + 2 ∧ { t with mem := s.mem, pc := s.pc } = s

/-- File 42, section 3 (decisions D9, D27: I is unchanged): LD [I], Vx stores V0 to Vx at I upward. -/
def Obligations.StRegsStoresBlock : Prop :=
  ∀ (s : State) (x : Reg), s.index.toNat + x.val ≤ 0xFFF → ∃ t, exec (.stRegs x) s = .next t ∧
    (∀ r : Reg, r ≤ x → t.readByte (s.index.toNat + r.val) = s.reg r) ∧
    (∀ a, (a < s.index.toNat ∨ s.index.toNat + x.val < a) → t.readByte a = s.readByte a) ∧
    t.pc = s.pc + 2 ∧ { t with mem := s.mem, pc := s.pc } = s

/-- File 42, section 3 (decisions D9, D27): LD Vx, [I] loads V0 to Vx from I upward. -/
def Obligations.LdRegsLoadsBlock : Prop :=
  ∀ (s : State) (x : Reg), s.index.toNat + x.val ≤ 0xFFF → ∃ t, exec (.ldRegs x) s = .next t ∧
    (∀ r : Reg, r ≤ x → t.reg r = s.readByte (s.index.toNat + r.val)) ∧
    (∀ r : Reg, x < r → t.reg r = s.reg r) ∧ t.pc = s.pc + 2 ∧ { t with v := s.v, pc := s.pc } = s

/-- File 42, section 3, the round-trip law: after ST_REGS Vx, LD_REGS Vx in any state with the same I and the same bytes
in I to I + x restores V0 to Vx. -/
def Obligations.StoreThenLoadRestoresRegisters : Prop :=
  ∀ (s u : State) (x : Reg), s.index.toNat + x.val ≤ 0xFFF → ∃ t, exec (.stRegs x) s = .next t ∧
    (u.index = t.index →
      (∀ a, s.index.toNat ≤ a → a ≤ s.index.toNat + x.val → u.readByte a = t.readByte a) →
      ∃ w, exec (.ldRegs x) u = .next w ∧ ∀ r : Reg, r ≤ x → w.reg r = s.reg r)

/-- File 20, section 3 (decisions D3, D9): each of the four memory instructions raises OutOfBoundsAccess when its last
byte is above 0xFFF, with info the larger of I and 0x1000, and changes nothing else. -/
def Obligations.DataOutOfBoundsFaults : Prop :=
  ∀ (s : State) (i : Instr) (k : Nat),
    ((∃ x y n, i = .drw x y n ∧ 1 ≤ n.val ∧ k = n.val - 1) ∨ (∃ x, i = .ldB x ∧ k = 2) ∨
      (∃ x, (i = .stRegs x ∨ i = .ldRegs x) ∧ k = x.val)) →
    0xFFF < s.index.toNat + k →
    exec i s = .next { s with fault := some ⟨.outOfBoundsAccess, s.pc, encode i, max s.index.toNat 0x1000⟩ }

/-! ### Display -/

/-- File 43, section 2 (decision D10: dirty on every CLS): CLS. -/
def Obligations.ClsClearsFramebuffer : Prop :=
  ∀ s : State, ∃ t, exec .cls s = .next t ∧ (∀ yy < 32, ∀ xx < 64, pixelOn t.fb yy xx = false) ∧
    t.dirty = true ∧ t.pc = s.pc + 2 ∧ { t with fb := s.fb, dirty := s.dirty, pc := s.pc } = s

/-- File 43, section 3 (decisions D7 to D10), under either EDGE_POLICY: DRW toggles exactly the pixels its set bits land
on, VF tells whether one of them was on before, dirty is set, and nothing else changes; n = 0 never faults. -/
def Obligations.DrwXorsSprite : Prop :=
  ∀ (s : State) (x y : Reg) (n : Fin 16), (n.val = 0 ∨ s.index.toNat + n.val ≤ 0x1000) →
    ∃ t, exec (.drw x y n) s = .next t ∧
      (∀ yy < 32, ∀ xx < 64, (SpriteHits s x y n yy xx → pixelOn t.fb yy xx = !pixelOn s.fb yy xx) ∧
        (¬ SpriteHits s x y n yy xx → pixelOn t.fb yy xx = pixelOn s.fb yy xx)) ∧
      (SpriteCollides s x y n → t.reg 15 = 1) ∧ (¬ SpriteCollides s x y n → t.reg 15 = 0) ∧
      (∀ r, r ≠ 15 → t.reg r = s.reg r) ∧ t.dirty = true ∧ t.pc = s.pc + 2 ∧
      { t with v := s.v, fb := s.fb, dirty := s.dirty, pc := s.pc } = s

/-- File 43, section 3, the laws of DRW (conflict C9): for x and y other than 0xF, DRW twice restores the framebuffer, and
the second reports a collision if the first turned a pixel on. -/
def Obligations.DrwTwiceRestoresFramebuffer : Prop :=
  ∀ (s : State) (x y : Reg) (n : Fin 16), x ≠ 15 → y ≠ 15 → (n.val = 0 ∨ s.index.toNat + n.val ≤ 0x1000) →
    ∃ t u, exec (.drw x y n) s = .next t ∧ exec (.drw x y n) t = .next u ∧ u.fb = s.fb ∧
      ((∃ yy < 32, ∃ xx < 64, pixelOn s.fb yy xx = false ∧ pixelOn t.fb yy xx = true) → u.reg 15 = 1)

/-! ### Keys and timers -/

/-- File 44, section 2: SKP and SKNP, for a key that exists. -/
def Obligations.KeySkipsTestTheKey : Prop :=
  ∀ (s : State) (x : Reg), (s.reg x).toNat ≤ 15 →
    (∃ t, exec (.skp x) s = .next t ∧
      t.pc = (if s.keys.getLsbD (s.reg x).toNat = true then s.pc + 4 else s.pc + 2) ∧ { t with pc := s.pc } = s) ∧
    (∃ t, exec (.sknp x) s = .next t ∧
      t.pc = (if s.keys.getLsbD (s.reg x).toNat = true then s.pc + 2 else s.pc + 4) ∧ { t with pc := s.pc } = s)

/-- File 44, section 1 (decision D15): SKP and SKNP raise KeyIndexOutOfRange when Vx is above 15, with Vx as info, and
change nothing else. -/
def Obligations.KeyIndexAboveFifteenFaults : Prop :=
  ∀ (s : State) (x : Reg), 15 < (s.reg x).toNat →
    exec (.skp x) s = .next { s with
      fault := some ⟨.keyIndexOutOfRange, s.pc, BitVec.ofNat 16 (0xE09E + 256 * x.val), (s.reg x).toNat⟩ } ∧
    exec (.sknp x) s = .next { s with
      fault := some ⟨.keyIndexOutOfRange, s.pc, BitVec.ofNat 16 (0xE0A1 + 256 * x.val), (s.reg x).toNat⟩ }

/-- R163: LD Vx, DT. -/
def Obligations.LdVxDtReadsDelayTimer : Prop :=
  (∀ x : Reg, EncodedAs (.ldVxDt x) (0xF007 + 256 * x.val)) ∧
  ∀ (s : State) (x : Reg), ∃ t, exec (.ldVxDt x) s = .next t ∧ t.reg x = s.dt ∧
    (∀ r, r ≠ x → t.reg r = s.reg r) ∧ t.pc = s.pc + 2 ∧ { t with v := s.v, pc := s.pc } = s

/-- R164: LD DT, Vx. -/
def Obligations.LdDtVxSetsDelayTimer : Prop :=
  (∀ x : Reg, EncodedAs (.ldDtVx x) (0xF015 + 256 * x.val)) ∧
  ∀ (s : State) (x : Reg), ∃ t, exec (.ldDtVx x) s = .next t ∧ t.dt = s.reg x ∧ t.pc = s.pc + 2 ∧
    { t with dt := s.dt, pc := s.pc } = s

/-- R165: LD ST, Vx. -/
def Obligations.LdStVxSetsSoundTimer : Prop :=
  (∀ x : Reg, EncodedAs (.ldStVx x) (0xF018 + 256 * x.val)) ∧
  ∀ (s : State) (x : Reg), ∃ t, exec (.ldStVx x) s = .next t ∧ t.st = s.reg x ∧ t.pc = s.pc + 2 ∧
    { t with st := s.st, pc := s.pc } = s

/-- File 44, section 4 (decisions D16, D17): LD Vx, K changes nothing while no key is pressed; else it stores the index of
a pressed key, the lowest or the highest where KEY_SELECT says so. -/
def Obligations.AwaitKeyStoresPressedKey : Prop :=
  (∀ (s : State) (x : Reg), s.keys = 0 → exec (.ldVxK x) s = .next s) ∧
  ∀ (s : State) (x : Reg), s.keys ≠ 0 → ∃ t k, exec (.ldVxK x) s = .next t ∧ k < 16 ∧
    s.keys.getLsbD k = true ∧ (t.reg x).toNat = k ∧
    (s.params.keySelect = .lowest → ∀ j < 16, s.keys.getLsbD j = true → k ≤ j) ∧
    (s.params.keySelect = .highest → ∀ j < 16, s.keys.getLsbD j = true → j ≤ k) ∧
    (∀ r, r ≠ x → t.reg r = s.reg r) ∧ t.pc = s.pc + 2 ∧ { t with v := s.v, pc := s.pc, draws := s.draws } = s

/-- File 44, section 4 (decision D16, log 4): with KEY_SELECT = any every pressed key is admitted, by some draw, and only
pressed keys are. -/
def Obligations.AnyPressedKeyAdmitted : Prop :=
  ∀ (keys : BitVec 16) (k : Reg),
    (∃ d, selectKey .any d (pressedKeys keys) = some k) ↔ keys.getLsbD k.val = true

/-! ### The environment's events -/

/-- File 60, section 6 (decision D21: also in the faulted state): TICK counts both timers down, each saturating at 0, and
touches nothing else but the model's own event queue (log 2). -/
def Obligations.TickCountsDownBothTimers : Prop :=
  ∀ s : State, nextEvent s = .tick → ∃ t, step s = .next t ∧ t.dt.toNat = s.dt.toNat - 1 ∧
    t.st.toNat = s.st.toNat - 1 ∧ { t with dt := s.dt, st := s.st, events := s.events } = s

/-- File 60, section 6 (conflict C10): after n TICK events in a row each timer is n lower, never below 0, and nothing else
has changed but the model's own event queue (log 2). -/
def Obligations.TicksSaturateAtZero : Prop :=
  ∀ (n : Nat) (s : State) (rest : List Event), s.events = List.replicate n .tick ++ rest →
    ∃ t, core.run n s = .next t ∧ t.dt.toNat = s.dt.toNat - n ∧ t.st.toNat = s.st.toNat - n ∧
      t.events = rest ∧ { t with dt := s.dt, st := s.st, events := s.events } = s

/-- R187: KEYS(k) replaces all 16 keys at once, and touches nothing else. -/
def Obligations.KeysReplacesAllSixteen : Prop :=
  ∀ (s : State) (k : BitVec 16), ∃ t, runEvent (.keys k) s = .next t ∧
    (∀ j < 16, t.keys.getLsbD j = k.getLsbD j) ∧ { t with keys := s.keys } = s

/-- File 60, section 6 (decision D20): FRAME_ACK clears dirty and changes nothing else but the model's own event
queue (log 2). -/
def Obligations.FrameAckClearsDirty : Prop :=
  ∀ s : State, nextEvent s = .frameAck → ∃ t, step s = .next t ∧ t.dirty = false ∧
    { t with dirty := s.dirty, events := s.events } = s

/-- File 20, section 1, and file 60, section 6, inside the contract of LOAD: byte k of the ROM goes to 0x200 + k, every
other byte keeps its value; a ROM longer than 3584 bytes is refused as RomTooLarge, its length reported and memory not
changed (log 5, the model's choice of the report; the event queue is the model's own, log 2). -/
def Obligations.LoadPlacesRom : Prop :=
  ∀ (s : State) (bs : List Byte), nextEvent s = .load bs → s.loadOpen = true →
    (bs.length ≤ 3584 → ∃ t, step s = .next t ∧
      (∀ (k : Nat) (h : k < bs.length), t.readByte (0x200 + k) = bs[k]) ∧
      (∀ a, (a < 0x200 ∨ 0x200 + bs.length ≤ a) → t.readByte a = s.readByte a) ∧
      { t with mem := s.mem, events := s.events, loadOpen := true } = s) ∧
    (3584 < bs.length → ∃ t, step s = .next t ∧ t.loadRefusal = some bs.length ∧
      (∀ a, t.readByte a = s.readByte a) ∧
      { t with loadRefusal := s.loadRefusal, events := s.events, loadOpen := true } = s)

/-- File 60, section 6 (decision D22; S10, log 5, the model's choice of a refusal): a LOAD outside its contract is
refused by name. -/
def Obligations.LoadOutsideContractRefused : Prop :=
  ∀ (s : State) (bs : List Byte), nextEvent s = .load bs → s.loadOpen = false →
    step s = .refused .loadOutsideContract

/-- File 70, section 1 (decisions D1, D14, D18: the zeros and the font): from every state RESET leaves the listed values,
the parameters and the environment's further events as they were (log 2, log 6). The LOAD contract opens (log 5); log 7 (dead stack
entries) is not stated. -/
def Obligations.ResetLeavesListedValues : Prop :=
  ∀ s : State, nextEvent s = .reset → ∃ t, step s = .next t ∧
    (∀ k (h : k < 80), t.readByte (s.params.fontBase.val + k) = s.params.fontData[k]) ∧
    (∀ a, (a < s.params.fontBase.val ∨ s.params.fontBase.val + 80 ≤ a) → t.readByte a = 0) ∧
    t.pc = 0x200 ∧ t.sp = 0 ∧ (∀ r, t.reg r = 0) ∧ t.index = 0 ∧ t.dt = 0 ∧ t.st = 0 ∧ t.keys = 0 ∧
    (∀ yy < 32, ∀ xx < 64, pixelOn t.fb yy xx = false) ∧ t.dirty = false ∧ t.fault = none ∧
    t.params = s.params ∧ t.events = s.events.tail ∧ t.loadOpen = true

/-! ### The whole machine -/

/-- Files 10 (section 4), 40 and 60 (section 1; decisions D2, D3): every instruction in every state either fails the one
check of its own that the table of causes gives it, and then only the latch changes, to the record of that cause; or it
completes, with the latch as it was and pc as the pc table says. -/
def Obligations.FaultsAndPcByTable : Prop :=
  ∀ (i : Instr) (s : State),
    (∀ r, raisesIn i s = some r →
      exec i s = .next { s with fault := some ⟨r.cause, s.pc, encode i, r.info⟩ }) ∧
    (raisesIn i s = none → ∃ t, exec i s = .next t ∧ t.fault = s.fault ∧ t.pc = pcAfter i s)

/-- File 10, section 12: every event keeps the invariant, from every state that meets it. -/
def Obligations.StepKeepsInvariant : Prop :=
  ∀ s t : State, Inv s → step s = .next t → Inv t

/-- The state after reset meets the invariant. -/
def Obligations.ResetMeetsInvariant : Prop := Inv State.reset

/-- File 10, section 2: no instruction writes a general register but its destinations. -/
def Obligations.RegisterFrame : Prop :=
  ∀ (i : Instr) (s t : State) (r : Reg), exec i s = .next t → mayWriteReg i r = false → t.reg r = s.reg r

/-- Files 20 and 42: no instruction changes a byte of memory outside the bytes LD_B and ST_REGS store to. -/
def Obligations.MemoryFrame : Prop :=
  ∀ (i : Instr) (s t : State) (a : Nat), exec i s = .next t →
    (a < (storeSpan i s).1 ∨ (storeSpan i s).1 + (storeSpan i s).2 ≤ a) → t.readByte a = s.readByte a

/-- Files 10 and 40: I changes only by LD_I, ADD_I and LD_F, SP only by CALL and RET, the stack only by CALL, DT and ST
only by LD_DT_VX and LD_ST_VX, the framebuffer and dirty only by CLS and DRW; keys, the parameters, the environment's
events and the LOAD contract by no instruction; a draw is used only by RND and LD_VX_K. -/
def Obligations.SpecialStateFrame : Prop :=
  ∀ (i : Instr) (s t : State), exec i s = .next t →
    (t.index ≠ s.index → (∃ nnn, i = .ldI nnn) ∨ (∃ x, i = .addI x) ∨ (∃ x, i = .ldF x)) ∧
    (t.sp ≠ s.sp → (∃ nnn, i = .call nnn) ∨ i = .ret) ∧
    (t.stack ≠ s.stack → ∃ nnn, i = .call nnn) ∧
    (t.dt ≠ s.dt → ∃ x, i = .ldDtVx x) ∧ (t.st ≠ s.st → ∃ x, i = .ldStVx x) ∧
    (t.fb ≠ s.fb ∨ t.dirty ≠ s.dirty → i = .cls ∨ ∃ x y n, i = .drw x y n) ∧
    (t.draws ≠ s.draws → (∃ x kk, i = .rnd x kk) ∨ (∃ x, i = .ldVxK x)) ∧
    t.keys = s.keys ∧ t.params = s.params ∧ t.events = s.events ∧ t.loadOpen = s.loadOpen ∧
    t.loadRefusal = s.loadRefusal

/-- File 00, section 4: no event changes the parameters of the machine. -/
def Obligations.ParametersAreFixed : Prop :=
  ∀ s t : State, step s = .next t → t.params = s.params

/-- Files 10 (section 5) and 70 (section 1), the unobservability of dead stack entries: two states that differ only there
step to states that differ only there. -/
def Obligations.DeadStackEntriesUnobservable : Prop :=
  ∀ s t : State, SameLive s t → OutcomesAgree SameLive (step s) (step t)

/-- Files 10 (sections 7 and 9): no instruction reads ST or dirty: two states that differ only there are left differing
only there. -/
def Obligations.NoInstructionReadsSoundOrDirty : Prop :=
  ∀ (i : Instr) (s t : State), SameToProgram s t → OutcomesAgree SameToProgram (exec i s) (exec i t)

/-- File 60, section 6: every event in every state has its effect, but a LOAD outside its contract. -/
def Obligations.OnlyLoadOutsideContractStops : Prop :=
  ∀ s : State, (∃ t, step s = .next t) ∨
    (s.loadOpen = false ∧ (∃ bs, nextEvent s = .load bs) ∧ step s = .refused .loadOutsideContract)

/-- File 60, section 8 (decision D31): once a program has ended, with the LOAD contract closed, a STEP changes nothing
but the model's own event queue (log 2), and the program stays ended; the LOAD contract is the model's own (log 5). -/
def Obligations.EndedProgramStaysParked : Prop :=
  ∀ s : State, Ended s → s.loadOpen = false → nextEvent s = .step →
    step s = .next { s with events := s.events.tail } ∧ Ended { s with events := s.events.tail }
end

