-- ==== Sys2Proof/Machine/Assembly.lean ====
section
/-! DEFINITION. The spec's own assembly language (R81, R82, D25): the assembly form of each instruction, the choice of
the instruction by operand shapes, labels, and the DB directive. -/

namespace Sys2Proof.Machine

/-- The assembly mnemonics of R81; SE, SNE, LD, ADD and JP stand for several instructions each. -/
inductive AsmMnemonic where
  | sys | cls | ret | jp | call | se | sne | ld | add | or | and | xor | sub | shr | subn | shl | rnd | drw | skp | sknp
  deriving DecidableEq, Repr

/-- An operand of a line (R81): a register, a number, a label, or one of the literal operand tokens. -/
inductive AsmOperand where
  /-- `V0` to `VF` -/
  | reg (x : Reg)
  | num (n : Nat)
  /-- the address the label stands for (`labelAddr`) -/
  | label (name : String)
  /-- `I` -/
  | index
  /-- `DT` -/
  | delayTimer
  /-- `ST` -/
  | soundTimer
  /-- `K` -/
  | key
  /-- `F` -/
  | font
  /-- `B` -/
  | bcd
  /-- `[I]` -/
  | atIndex
  deriving DecidableEq, Repr

/-- An instruction line: the mnemonic, then the operands. -/
structure AsmLine where
  mnemonic : AsmMnemonic
  operands : List AsmOperand
  deriving DecidableEq, Repr

/-- One item of a program: a label, an instruction, or `DB b0, b1, ...` (R82). -/
inductive AsmItem where
  | label (name : String)
  | line (l : AsmLine)
  | db (bytes : List Byte)
  deriving DecidableEq, Repr

/-- The assembly form of each instruction (R81). -/
def disassemble : Instr → AsmLine
  | .sys nnn => ⟨.sys, [.num nnn.toNat]⟩
  | .cls => ⟨.cls, []⟩
  | .ret => ⟨.ret, []⟩
  | .jp nnn => ⟨.jp, [.num nnn.toNat]⟩
  | .call nnn => ⟨.call, [.num nnn.toNat]⟩
  | .seImm x kk => ⟨.se, [.reg x, .num kk.toNat]⟩
  | .sneImm x kk => ⟨.sne, [.reg x, .num kk.toNat]⟩
  | .seReg x y => ⟨.se, [.reg x, .reg y]⟩
  | .ldImm x kk => ⟨.ld, [.reg x, .num kk.toNat]⟩
  | .addImm x kk => ⟨.add, [.reg x, .num kk.toNat]⟩
  | .ldReg x y => ⟨.ld, [.reg x, .reg y]⟩
  | .or x y => ⟨.or, [.reg x, .reg y]⟩
  | .and x y => ⟨.and, [.reg x, .reg y]⟩
  | .xor x y => ⟨.xor, [.reg x, .reg y]⟩
  | .addReg x y => ⟨.add, [.reg x, .reg y]⟩
  | .sub x y => ⟨.sub, [.reg x, .reg y]⟩
  | .shr x _ => ⟨.shr, [.reg x]⟩
  | .subn x y => ⟨.subn, [.reg x, .reg y]⟩
  | .shl x _ => ⟨.shl, [.reg x]⟩
  | .sneReg x y => ⟨.sne, [.reg x, .reg y]⟩
  | .ldI nnn => ⟨.ld, [.index, .num nnn.toNat]⟩
  | .jpV0 nnn => ⟨.jp, [.reg 0, .num nnn.toNat]⟩
  | .rnd x kk => ⟨.rnd, [.reg x, .num kk.toNat]⟩
  | .drw x y n => ⟨.drw, [.reg x, .reg y, .num n.val]⟩
  | .skp x => ⟨.skp, [.reg x]⟩
  | .sknp x => ⟨.sknp, [.reg x]⟩
  | .ldVxDt x => ⟨.ld, [.reg x, .delayTimer]⟩
  | .ldVxK x => ⟨.ld, [.reg x, .key]⟩
  | .ldDtVx x => ⟨.ld, [.delayTimer, .reg x]⟩
  | .ldStVx x => ⟨.ld, [.soundTimer, .reg x]⟩
  | .addI x => ⟨.add, [.index, .reg x]⟩
  | .ldF x => ⟨.ld, [.font, .reg x]⟩
  | .ldB x => ⟨.ld, [.bcd, .reg x]⟩
  | .stRegs x => ⟨.ld, [.atIndex, .reg x]⟩
  | .ldRegs x => ⟨.ld, [.reg x, .atIndex]⟩

/-- A number as the 12-bit address operand of an instruction, if it is one. -/
def withAddr (n : Nat) (mk : Addr → Instr) : Option Instr := if n < 0x1000 then some (mk (BitVec.ofNat 12 n)) else none

/-- A number as the 8-bit immediate operand of an instruction, if it is one. -/
def withByte (n : Nat) (mk : Byte → Instr) : Option Instr := if n < 0x100 then some (mk (BitVec.ofNat 8 n)) else none

/-- The instruction of a line whose labels are resolved, by the operand shapes of R81; SHR and SHL assemble with y = 0. -/
def selectInstr (l : AsmLine) : Option Instr :=
  match l.mnemonic, l.operands with
  | .sys, [.num n] => withAddr n .sys
  | .cls, [] => some .cls
  | .ret, [] => some .ret
  | .jp, [.num n] => withAddr n .jp
  | .jp, [.reg x, .num n] => if x = 0 then withAddr n .jpV0 else none
  | .call, [.num n] => withAddr n .call
  | .se, [.reg x, .num n] => withByte n (.seImm x)
  | .se, [.reg x, .reg y] => some (.seReg x y)
  | .sne, [.reg x, .num n] => withByte n (.sneImm x)
  | .sne, [.reg x, .reg y] => some (.sneReg x y)
  | .ld, [.reg x, .num n] => withByte n (.ldImm x)
  | .ld, [.reg x, .reg y] => some (.ldReg x y)
  | .ld, [.index, .num n] => withAddr n .ldI
  | .ld, [.reg x, .delayTimer] => some (.ldVxDt x)
  | .ld, [.reg x, .key] => some (.ldVxK x)
  | .ld, [.delayTimer, .reg x] => some (.ldDtVx x)
  | .ld, [.soundTimer, .reg x] => some (.ldStVx x)
  | .ld, [.font, .reg x] => some (.ldF x)
  | .ld, [.bcd, .reg x] => some (.ldB x)
  | .ld, [.atIndex, .reg x] => some (.stRegs x)
  | .ld, [.reg x, .atIndex] => some (.ldRegs x)
  | .add, [.reg x, .num n] => withByte n (.addImm x)
  | .add, [.reg x, .reg y] => some (.addReg x y)
  | .add, [.index, .reg x] => some (.addI x)
  | .or, [.reg x, .reg y] => some (.or x y)
  | .and, [.reg x, .reg y] => some (.and x y)
  | .xor, [.reg x, .reg y] => some (.xor x y)
  | .sub, [.reg x, .reg y] => some (.sub x y)
  | .shr, [.reg x] => some (.shr x 0)
  | .subn, [.reg x, .reg y] => some (.subn x y)
  | .shl, [.reg x] => some (.shl x 0)
  | .rnd, [.reg x, .num n] => withByte n (.rnd x)
  | .drw, [.reg x, .reg y, .num n] => if h : n < 16 then some (.drw x y ⟨n, h⟩) else none
  | .skp, [.reg x] => some (.skp x)
  | .sknp, [.reg x] => some (.sknp x)
  | _, _ => none

/-- The instruction a line assembles to, if it has a word of its own (SYS 0x0E0 and SYS 0x0EE have none; log 14). -/
def assembleLine (l : AsmLine) : Option Instr := (selectInstr l).filter Instr.wellFormed

/-- How many bytes an item takes. -/
def AsmItem.size : AsmItem → Nat
  | .label _ => 0
  | .line _ => 2
  | .db bytes => bytes.length

/-- The address a label stands for in a program placed at `addr`: that of the next instruction (R81). R81 does not say
what a label before DB stands for, nor one with no instruction and no DB after it, nor what a name defined twice does:
here the first stands for the address of the DB bytes, the second for the address just past the program's last byte, and
of several definitions the first counts (DESIGN CHOICE, log 14). -/
def labelAddr (name : String) (addr : Nat) : List AsmItem → Option Nat
  | [] => none
  | .label other :: rest => if other = name then some addr else labelAddr name addr rest
  | .line _ :: rest => labelAddr name (addr + 2) rest
  | .db bytes :: rest => labelAddr name (addr + bytes.length) rest

/-- An operand with its label replaced by the label's address. -/
def resolveOperand (addressOf : String → Option Nat) : AsmOperand → Option AsmOperand
  | .label name => (addressOf name).map .num
  | operand => some operand

/-- The bytes of one item: an instruction's word high byte first (R53), or the bytes of DB. -/
def assembleItem (addressOf : String → Option Nat) : AsmItem → Option (List Byte)
  | .label _ => some []
  | .db bytes => some bytes
  | .line l =>
    match l.operands.mapM (resolveOperand addressOf) with
    | none => none
    | some operands => (assembleLine ⟨l.mnemonic, operands⟩).map (fun i => [highByte (encode i), lowByte (encode i)])

/-- The ROM bytes of a program placed at 0x200 (R51), or nothing where a line has no instruction or a label no address. -/
def assemble (items : List AsmItem) : Option (List Byte) :=
  (items.mapM (assembleItem (fun name => labelAddr name 0x200 items))).map List.flatten

/-! ### The text of a line -/

/-- The mnemonic as written. -/
def AsmMnemonic.text : AsmMnemonic → String
  | .sys => "SYS" | .cls => "CLS" | .ret => "RET" | .jp => "JP" | .call => "CALL" | .se => "SE" | .sne => "SNE"
  | .ld => "LD" | .add => "ADD" | .or => "OR" | .and => "AND" | .xor => "XOR" | .sub => "SUB" | .shr => "SHR"
  | .subn => "SUBN" | .shl => "SHL" | .rnd => "RND" | .drw => "DRW" | .skp => "SKP" | .sknp => "SKNP"

/-- A number in hexadecimal digits. -/
def hexText (n : Nat) : String := String.ofList ((Nat.toDigits 16 n).map Char.toUpper)

/-- The operand as written. -/
def AsmOperand.text : AsmOperand → String
  | .reg x => "V" ++ hexText x.val
  | .num n => "0x" ++ hexText n
  | .label name => name
  | .index => "I"
  | .delayTimer => "DT"
  | .soundTimer => "ST"
  | .key => "K"
  | .font => "F"
  | .bcd => "B"
  | .atIndex => "[I]"

/-- The line as written: mnemonic, then the operands separated by commas. -/
def AsmLine.text (l : AsmLine) : String :=
  match l.operands with
  | [] => l.mnemonic.text
  | operands => l.mnemonic.text ++ " " ++ String.intercalate ", " (operands.map AsmOperand.text)

/-! ### Reading text (R81): one instruction per line, `;` begins a comment -/

/-- The pieces of a text between the occurrences of `sep`. -/
def splitChars (sep : Char) : List Char → List (List Char)
  | [] => [[]]
  | c :: cs =>
    match splitChars sep cs with
    | [] => [[c]]
    | piece :: pieces => if c = sep then [] :: piece :: pieces else (c :: piece) :: pieces

/-- A text without the blanks at its ends. -/
def trimChars (cs : List Char) : List Char :=
  ((cs.dropWhile Char.isWhitespace).reverse.dropWhile Char.isWhitespace).reverse

/-- The sixteen hexadecimal digits as registers and numbers write them (R81), each at its value. -/
def hexDigits : List Char := "0123456789ABCDEF".toList

/-- The value of a digit of a number: a hexadecimal digit in either letter case (DESIGN CHOICE, log 14). -/
def digitValue (c : Char) : Option Nat := hexDigits.idxOf? c.toUpper

/-- The number that digits stand for in a base, read on from `acc`. -/
def digitsValue (base acc : Nat) : List Char → Option Nat
  | [] => some acc
  | c :: cs =>
    match digitValue c with
    | none => none
    | some d => if d < base then digitsValue base (base * acc + d) cs else none

/-- A number in `0x` hexadecimal or in decimal. -/
def parseNumber : List Char → Option Nat
  | '0' :: 'x' :: c :: cs => digitsValue 16 0 (c :: cs)
  | '0' :: 'x' :: [] => none
  | [] => none
  | c :: cs => digitsValue 10 0 (c :: cs)

/-- An operand that is written as itself (R81): a literal token, or a register `V0` to `VF` with an upper-case digit. -/
def parseToken : List Char → Option AsmOperand
  | ['I'] => some .index
  | ['D', 'T'] => some .delayTimer
  | ['S', 'T'] => some .soundTimer
  | ['K'] => some .key
  | ['F'] => some .font
  | ['B'] => some .bcd
  | ['[', 'I', ']'] => some .atIndex
  | ['V', d] => (hexDigits.idxOf? d).map (fun x => .reg (Fin.ofNat 16 x))
  | _ => none

/-- A label's name: letters, digits and `_`, not beginning with a digit and not an operand written as itself. R81 says
only 'a name' (DESIGN CHOICE, log 14). -/
def isName (cs : List Char) : Bool :=
  match cs with
  | [] => false
  | c :: rest => !c.isDigit && (c :: rest).all (fun d => d.isAlphanum || d == '_') && (parseToken (c :: rest)).isNone

/-- A name used as an operand: the same names that a label's line may define (DESIGN CHOICE, log 14). -/
def parseName (cs : List Char) : Option AsmOperand := if isName cs then some (.label (String.ofList cs)) else none

/-- An operand: one written as itself, a number, or a label's name. -/
def parseOperand (cs : List Char) : Option AsmOperand :=
  parseToken cs <|> (parseNumber cs).map AsmOperand.num <|> parseName cs

/-- The operands of a line, separated by commas. -/
def parseOperands (cs : List Char) : Option (List AsmOperand) :=
  if (trimChars cs).isEmpty then some [] else (splitChars ',' cs).mapM (fun piece => parseOperand (trimChars piece))

/-- All the mnemonics. -/
def allMnemonics : List AsmMnemonic :=
  [.sys, .cls, .ret, .jp, .call, .se, .sne, .ld, .add, .or, .and, .xor, .sub, .shr, .subn, .shl, .rnd, .drw, .skp, .sknp]

/-- A byte of a DB line; a number above 0xFF is none (log 14). -/
def parseByte (cs : List Char) : Option Byte :=
  match parseNumber (trimChars cs) with
  | some n => if n < 0x100 then some (BitVec.ofNat 8 n) else none
  | none => none

/-- An instruction or a DB line, without label and comment; nothing for an empty one. -/
def parseStatement (cs : List Char) : Option (List AsmItem) :=
  let word := cs.takeWhile (fun c => !c.isWhitespace)
  let rest := cs.dropWhile (fun c => !c.isWhitespace)
  if cs.isEmpty then some []
  else if word = ['D', 'B'] then ((splitChars ',' rest).mapM parseByte).map (fun bytes => [.db bytes])
  else
    match allMnemonics.find? (fun m => m.text.toList == word), parseOperands rest with
    | some m, some operands => some [.line ⟨m, operands⟩]
    | _, _ => none

/-- The items of one line of text: a label if a name and `:` stand first, then an instruction or DB, on the same line or
a later one (log 14). -/
def parseLine (cs : List Char) : Option (List AsmItem) :=
  let code := cs.takeWhile (fun c => c != ';')
  let name := trimChars (code.takeWhile (fun c => c != ':'))
  match code.dropWhile (fun c => c != ':') with
  | [] => parseStatement (trimChars code)
  | _ :: rest =>
    if isName name then (parseStatement (trimChars rest)).map (fun items => .label (String.ofList name) :: items) else none

/-- The items of a program's text. -/
def parseProgram (text : String) : Option (List AsmItem) :=
  ((splitChars '\n' text.toList).mapM parseLine).map List.flatten

end Sys2Proof.Machine
end

