-- ==== Sys2Proof/Laws/Assembly.lean ====
section
/-! SUPPORT. Assembling an instruction's assembly form gives the instruction back. -/

namespace Sys2Proof.Machine

theorem withAddr_toNat (nnn : Addr) (mk : Addr → Instr) : withAddr nnn.toNat mk = some (mk nnn) := by
  rw [withAddr, if_pos nnn.isLt, BitVec.ofNat_toNat, BitVec.setWidth_eq]

theorem withByte_toNat (kk : Byte) (mk : Byte → Instr) : withByte kk.toNat mk = some (mk kk) := by
  rw [withByte, if_pos kk.isLt, BitVec.ofNat_toNat, BitVec.setWidth_eq]

/-- The round trip through the assembly form, for every instruction but shifts with a nonzero ignored field. -/
theorem assembleLine_disassemble (i : Instr) (wf : i.wellFormed = true) (hr : ∀ x y, i = .shr x y → y = 0)
    (hl : ∀ x y, i = .shl x y → y = 0) : assembleLine (disassemble i) = some i := by
  have : selectInstr (disassemble i) = some i := by
    cases i
    case shr x y => rw [hr x y rfl]; rfl
    case shl x y => rw [hl x y rfl]; rfl
    case drw x y n => simp [disassemble, selectInstr]
    all_goals simp only [disassemble, selectInstr, withAddr_toNat, withByte_toNat, if_true]
  rw [assembleLine, this, Option.filter_some, if_pos wf]

end Sys2Proof.Machine
end

