-- ==== Sys2Proof/Laws/State.lean ====
section
/-! SUPPORT. One lemma per field per update of State, and what each update does to a register read and to a byte read:
no later proof unfolds a record update. -/

namespace Sys2Proof.Machine.State

variable (s : State)

/-! ### `writeByte` -/

@[simp] theorem writeByte_params (a : Nat) (b : Byte) : (s.writeByte a b).params = s.params := rfl
@[simp] theorem writeByte_mem (a : Nat) (b : Byte) : (s.writeByte a b).mem = Memory.write s.params s.mem a b := rfl
@[simp] theorem writeByte_v (a : Nat) (b : Byte) : (s.writeByte a b).v = s.v := rfl
@[simp] theorem writeByte_index (a : Nat) (b : Byte) : (s.writeByte a b).index = s.index := rfl
@[simp] theorem writeByte_pc (a : Nat) (b : Byte) : (s.writeByte a b).pc = s.pc := rfl
@[simp] theorem writeByte_stack (a : Nat) (b : Byte) : (s.writeByte a b).stack = s.stack := rfl
@[simp] theorem writeByte_sp (a : Nat) (b : Byte) : (s.writeByte a b).sp = s.sp := rfl
@[simp] theorem writeByte_dt (a : Nat) (b : Byte) : (s.writeByte a b).dt = s.dt := rfl
@[simp] theorem writeByte_st (a : Nat) (b : Byte) : (s.writeByte a b).st = s.st := rfl
@[simp] theorem writeByte_keys (a : Nat) (b : Byte) : (s.writeByte a b).keys = s.keys := rfl
@[simp] theorem writeByte_fb (a : Nat) (b : Byte) : (s.writeByte a b).fb = s.fb := rfl
@[simp] theorem writeByte_dirty (a : Nat) (b : Byte) : (s.writeByte a b).dirty = s.dirty := rfl
@[simp] theorem writeByte_fault (a : Nat) (b : Byte) : (s.writeByte a b).fault = s.fault := rfl
@[simp] theorem writeByte_draws (a : Nat) (b : Byte) : (s.writeByte a b).draws = s.draws := rfl
@[simp] theorem writeByte_events (a : Nat) (b : Byte) : (s.writeByte a b).events = s.events := rfl
@[simp] theorem writeByte_loadOpen (a : Nat) (b : Byte) : (s.writeByte a b).loadOpen = s.loadOpen := rfl
@[simp] theorem writeByte_loadRefusal (a : Nat) (b : Byte) : (s.writeByte a b).loadRefusal = s.loadRefusal := rfl
@[simp] theorem reg_writeByte (a : Nat) (b : Byte) (r : Reg) : (s.writeByte a b).reg r = s.reg r := rfl
@[simp] theorem nextPc_writeByte (a : Nat) (b : Byte) : (s.writeByte a b).nextPc = s.nextPc := rfl

/-! ### `setReg` -/

@[simp] theorem setReg_params (x : Reg) (b : Byte) : (s.setReg x b).params = s.params := rfl
@[simp] theorem setReg_mem (x : Reg) (b : Byte) : (s.setReg x b).mem = s.mem := rfl
@[simp] theorem setReg_v (x : Reg) (b : Byte) : (s.setReg x b).v = s.v.set x.val b := rfl
@[simp] theorem setReg_index (x : Reg) (b : Byte) : (s.setReg x b).index = s.index := rfl
@[simp] theorem setReg_pc (x : Reg) (b : Byte) : (s.setReg x b).pc = s.pc := rfl
@[simp] theorem setReg_stack (x : Reg) (b : Byte) : (s.setReg x b).stack = s.stack := rfl
@[simp] theorem setReg_sp (x : Reg) (b : Byte) : (s.setReg x b).sp = s.sp := rfl
@[simp] theorem setReg_dt (x : Reg) (b : Byte) : (s.setReg x b).dt = s.dt := rfl
@[simp] theorem setReg_st (x : Reg) (b : Byte) : (s.setReg x b).st = s.st := rfl
@[simp] theorem setReg_keys (x : Reg) (b : Byte) : (s.setReg x b).keys = s.keys := rfl
@[simp] theorem setReg_fb (x : Reg) (b : Byte) : (s.setReg x b).fb = s.fb := rfl
@[simp] theorem setReg_dirty (x : Reg) (b : Byte) : (s.setReg x b).dirty = s.dirty := rfl
@[simp] theorem setReg_fault (x : Reg) (b : Byte) : (s.setReg x b).fault = s.fault := rfl
@[simp] theorem setReg_draws (x : Reg) (b : Byte) : (s.setReg x b).draws = s.draws := rfl
@[simp] theorem setReg_events (x : Reg) (b : Byte) : (s.setReg x b).events = s.events := rfl
@[simp] theorem setReg_loadOpen (x : Reg) (b : Byte) : (s.setReg x b).loadOpen = s.loadOpen := rfl
@[simp] theorem setReg_loadRefusal (x : Reg) (b : Byte) : (s.setReg x b).loadRefusal = s.loadRefusal := rfl
@[simp] theorem readByte_setReg (x : Reg) (b : Byte) (m : Nat) : (s.setReg x b).readByte m = s.readByte m := rfl
@[simp] theorem nextPc_setReg (x : Reg) (b : Byte) : (s.setReg x b).nextPc = s.nextPc := rfl

/-! ### `setRegs` -/

@[simp] theorem setRegs_params (bs : List Byte) : (s.setRegs bs).params = s.params := rfl
@[simp] theorem setRegs_mem (bs : List Byte) : (s.setRegs bs).mem = s.mem := rfl
@[simp] theorem setRegs_v (bs : List Byte) : (s.setRegs bs).v = Vector.ofFn (fun r => (bs[r.val]?).getD (s.reg r)) := rfl
@[simp] theorem setRegs_index (bs : List Byte) : (s.setRegs bs).index = s.index := rfl
@[simp] theorem setRegs_pc (bs : List Byte) : (s.setRegs bs).pc = s.pc := rfl
@[simp] theorem setRegs_stack (bs : List Byte) : (s.setRegs bs).stack = s.stack := rfl
@[simp] theorem setRegs_sp (bs : List Byte) : (s.setRegs bs).sp = s.sp := rfl
@[simp] theorem setRegs_dt (bs : List Byte) : (s.setRegs bs).dt = s.dt := rfl
@[simp] theorem setRegs_st (bs : List Byte) : (s.setRegs bs).st = s.st := rfl
@[simp] theorem setRegs_keys (bs : List Byte) : (s.setRegs bs).keys = s.keys := rfl
@[simp] theorem setRegs_fb (bs : List Byte) : (s.setRegs bs).fb = s.fb := rfl
@[simp] theorem setRegs_dirty (bs : List Byte) : (s.setRegs bs).dirty = s.dirty := rfl
@[simp] theorem setRegs_fault (bs : List Byte) : (s.setRegs bs).fault = s.fault := rfl
@[simp] theorem setRegs_draws (bs : List Byte) : (s.setRegs bs).draws = s.draws := rfl
@[simp] theorem setRegs_events (bs : List Byte) : (s.setRegs bs).events = s.events := rfl
@[simp] theorem setRegs_loadOpen (bs : List Byte) : (s.setRegs bs).loadOpen = s.loadOpen := rfl
@[simp] theorem setRegs_loadRefusal (bs : List Byte) : (s.setRegs bs).loadRefusal = s.loadRefusal := rfl
@[simp] theorem readByte_setRegs (bs : List Byte) (m : Nat) : (s.setRegs bs).readByte m = s.readByte m := rfl
@[simp] theorem nextPc_setRegs (bs : List Byte) : (s.setRegs bs).nextPc = s.nextPc := rfl

/-! ### `setIndex` -/

@[simp] theorem setIndex_params (a : Word) : (s.setIndex a).params = s.params := rfl
@[simp] theorem setIndex_mem (a : Word) : (s.setIndex a).mem = s.mem := rfl
@[simp] theorem setIndex_v (a : Word) : (s.setIndex a).v = s.v := rfl
@[simp] theorem setIndex_index (a : Word) : (s.setIndex a).index = a := rfl
@[simp] theorem setIndex_pc (a : Word) : (s.setIndex a).pc = s.pc := rfl
@[simp] theorem setIndex_stack (a : Word) : (s.setIndex a).stack = s.stack := rfl
@[simp] theorem setIndex_sp (a : Word) : (s.setIndex a).sp = s.sp := rfl
@[simp] theorem setIndex_dt (a : Word) : (s.setIndex a).dt = s.dt := rfl
@[simp] theorem setIndex_st (a : Word) : (s.setIndex a).st = s.st := rfl
@[simp] theorem setIndex_keys (a : Word) : (s.setIndex a).keys = s.keys := rfl
@[simp] theorem setIndex_fb (a : Word) : (s.setIndex a).fb = s.fb := rfl
@[simp] theorem setIndex_dirty (a : Word) : (s.setIndex a).dirty = s.dirty := rfl
@[simp] theorem setIndex_fault (a : Word) : (s.setIndex a).fault = s.fault := rfl
@[simp] theorem setIndex_draws (a : Word) : (s.setIndex a).draws = s.draws := rfl
@[simp] theorem setIndex_events (a : Word) : (s.setIndex a).events = s.events := rfl
@[simp] theorem setIndex_loadOpen (a : Word) : (s.setIndex a).loadOpen = s.loadOpen := rfl
@[simp] theorem setIndex_loadRefusal (a : Word) : (s.setIndex a).loadRefusal = s.loadRefusal := rfl
@[simp] theorem reg_setIndex (a : Word) (r : Reg) : (s.setIndex a).reg r = s.reg r := rfl
@[simp] theorem readByte_setIndex (a : Word) (m : Nat) : (s.setIndex a).readByte m = s.readByte m := rfl
@[simp] theorem nextPc_setIndex (a : Word) : (s.setIndex a).nextPc = s.nextPc := rfl

/-! ### `goto` -/

@[simp] theorem goto_params (w : Word) : (s.goto w).params = s.params := rfl
@[simp] theorem goto_mem (w : Word) : (s.goto w).mem = s.mem := rfl
@[simp] theorem goto_v (w : Word) : (s.goto w).v = s.v := rfl
@[simp] theorem goto_index (w : Word) : (s.goto w).index = s.index := rfl
@[simp] theorem goto_pc (w : Word) : (s.goto w).pc = w := rfl
@[simp] theorem goto_stack (w : Word) : (s.goto w).stack = s.stack := rfl
@[simp] theorem goto_sp (w : Word) : (s.goto w).sp = s.sp := rfl
@[simp] theorem goto_dt (w : Word) : (s.goto w).dt = s.dt := rfl
@[simp] theorem goto_st (w : Word) : (s.goto w).st = s.st := rfl
@[simp] theorem goto_keys (w : Word) : (s.goto w).keys = s.keys := rfl
@[simp] theorem goto_fb (w : Word) : (s.goto w).fb = s.fb := rfl
@[simp] theorem goto_dirty (w : Word) : (s.goto w).dirty = s.dirty := rfl
@[simp] theorem goto_fault (w : Word) : (s.goto w).fault = s.fault := rfl
@[simp] theorem goto_draws (w : Word) : (s.goto w).draws = s.draws := rfl
@[simp] theorem goto_events (w : Word) : (s.goto w).events = s.events := rfl
@[simp] theorem goto_loadOpen (w : Word) : (s.goto w).loadOpen = s.loadOpen := rfl
@[simp] theorem goto_loadRefusal (w : Word) : (s.goto w).loadRefusal = s.loadRefusal := rfl
@[simp] theorem reg_goto (w : Word) (r : Reg) : (s.goto w).reg r = s.reg r := rfl
@[simp] theorem readByte_goto (w : Word) (m : Nat) : (s.goto w).readByte m = s.readByte m := rfl

/-! ### `advance` -/

@[simp] theorem advance_params : s.advance.params = s.params := rfl
@[simp] theorem advance_mem : s.advance.mem = s.mem := rfl
@[simp] theorem advance_v : s.advance.v = s.v := rfl
@[simp] theorem advance_index : s.advance.index = s.index := rfl
@[simp] theorem advance_pc : s.advance.pc = s.nextPc := rfl
@[simp] theorem advance_stack : s.advance.stack = s.stack := rfl
@[simp] theorem advance_sp : s.advance.sp = s.sp := rfl
@[simp] theorem advance_dt : s.advance.dt = s.dt := rfl
@[simp] theorem advance_st : s.advance.st = s.st := rfl
@[simp] theorem advance_keys : s.advance.keys = s.keys := rfl
@[simp] theorem advance_fb : s.advance.fb = s.fb := rfl
@[simp] theorem advance_dirty : s.advance.dirty = s.dirty := rfl
@[simp] theorem advance_fault : s.advance.fault = s.fault := rfl
@[simp] theorem advance_draws : s.advance.draws = s.draws := rfl
@[simp] theorem advance_events : s.advance.events = s.events := rfl
@[simp] theorem advance_loadOpen : s.advance.loadOpen = s.loadOpen := rfl
@[simp] theorem advance_loadRefusal : s.advance.loadRefusal = s.loadRefusal := rfl
@[simp] theorem reg_advance (r : Reg) : s.advance.reg r = s.reg r := rfl
@[simp] theorem readByte_advance (m : Nat) : s.advance.readByte m = s.readByte m := rfl

/-! ### `skipIf` -/

@[simp] theorem skipIf_params (c : Bool) : (s.skipIf c).params = s.params := rfl
@[simp] theorem skipIf_mem (c : Bool) : (s.skipIf c).mem = s.mem := rfl
@[simp] theorem skipIf_v (c : Bool) : (s.skipIf c).v = s.v := rfl
@[simp] theorem skipIf_index (c : Bool) : (s.skipIf c).index = s.index := rfl
@[simp] theorem skipIf_pc (c : Bool) : (s.skipIf c).pc = if c then s.nextPc + 2 else s.nextPc := rfl
@[simp] theorem skipIf_stack (c : Bool) : (s.skipIf c).stack = s.stack := rfl
@[simp] theorem skipIf_sp (c : Bool) : (s.skipIf c).sp = s.sp := rfl
@[simp] theorem skipIf_dt (c : Bool) : (s.skipIf c).dt = s.dt := rfl
@[simp] theorem skipIf_st (c : Bool) : (s.skipIf c).st = s.st := rfl
@[simp] theorem skipIf_keys (c : Bool) : (s.skipIf c).keys = s.keys := rfl
@[simp] theorem skipIf_fb (c : Bool) : (s.skipIf c).fb = s.fb := rfl
@[simp] theorem skipIf_dirty (c : Bool) : (s.skipIf c).dirty = s.dirty := rfl
@[simp] theorem skipIf_fault (c : Bool) : (s.skipIf c).fault = s.fault := rfl
@[simp] theorem skipIf_draws (c : Bool) : (s.skipIf c).draws = s.draws := rfl
@[simp] theorem skipIf_events (c : Bool) : (s.skipIf c).events = s.events := rfl
@[simp] theorem skipIf_loadOpen (c : Bool) : (s.skipIf c).loadOpen = s.loadOpen := rfl
@[simp] theorem skipIf_loadRefusal (c : Bool) : (s.skipIf c).loadRefusal = s.loadRefusal := rfl
@[simp] theorem reg_skipIf (c : Bool) (r : Reg) : (s.skipIf c).reg r = s.reg r := rfl
@[simp] theorem readByte_skipIf (c : Bool) (m : Nat) : (s.skipIf c).readByte m = s.readByte m := rfl

/-! ### `useDraw` -/

@[simp] theorem useDraw_params : s.useDraw.params = s.params := rfl
@[simp] theorem useDraw_mem : s.useDraw.mem = s.mem := rfl
@[simp] theorem useDraw_v : s.useDraw.v = s.v := rfl
@[simp] theorem useDraw_index : s.useDraw.index = s.index := rfl
@[simp] theorem useDraw_pc : s.useDraw.pc = s.pc := rfl
@[simp] theorem useDraw_stack : s.useDraw.stack = s.stack := rfl
@[simp] theorem useDraw_sp : s.useDraw.sp = s.sp := rfl
@[simp] theorem useDraw_dt : s.useDraw.dt = s.dt := rfl
@[simp] theorem useDraw_st : s.useDraw.st = s.st := rfl
@[simp] theorem useDraw_keys : s.useDraw.keys = s.keys := rfl
@[simp] theorem useDraw_fb : s.useDraw.fb = s.fb := rfl
@[simp] theorem useDraw_dirty : s.useDraw.dirty = s.dirty := rfl
@[simp] theorem useDraw_fault : s.useDraw.fault = s.fault := rfl
@[simp] theorem useDraw_draws : s.useDraw.draws = s.draws + 1 := rfl
@[simp] theorem useDraw_events : s.useDraw.events = s.events := rfl
@[simp] theorem useDraw_loadOpen : s.useDraw.loadOpen = s.loadOpen := rfl
@[simp] theorem useDraw_loadRefusal : s.useDraw.loadRefusal = s.loadRefusal := rfl
@[simp] theorem reg_useDraw (r : Reg) : s.useDraw.reg r = s.reg r := rfl
@[simp] theorem readByte_useDraw (m : Nat) : s.useDraw.readByte m = s.readByte m := rfl
@[simp] theorem nextPc_useDraw : s.useDraw.nextPc = s.nextPc := rfl

/-! ### `takeFault` -/

@[simp] theorem takeFault_params (e : Raised) (w : Word) : (s.takeFault e w).params = s.params := rfl
@[simp] theorem takeFault_mem (e : Raised) (w : Word) : (s.takeFault e w).mem = s.mem := rfl
@[simp] theorem takeFault_v (e : Raised) (w : Word) : (s.takeFault e w).v = s.v := rfl
@[simp] theorem takeFault_index (e : Raised) (w : Word) : (s.takeFault e w).index = s.index := rfl
@[simp] theorem takeFault_pc (e : Raised) (w : Word) : (s.takeFault e w).pc = s.pc := rfl
@[simp] theorem takeFault_stack (e : Raised) (w : Word) : (s.takeFault e w).stack = s.stack := rfl
@[simp] theorem takeFault_sp (e : Raised) (w : Word) : (s.takeFault e w).sp = s.sp := rfl
@[simp] theorem takeFault_dt (e : Raised) (w : Word) : (s.takeFault e w).dt = s.dt := rfl
@[simp] theorem takeFault_st (e : Raised) (w : Word) : (s.takeFault e w).st = s.st := rfl
@[simp] theorem takeFault_keys (e : Raised) (w : Word) : (s.takeFault e w).keys = s.keys := rfl
@[simp] theorem takeFault_fb (e : Raised) (w : Word) : (s.takeFault e w).fb = s.fb := rfl
@[simp] theorem takeFault_dirty (e : Raised) (w : Word) : (s.takeFault e w).dirty = s.dirty := rfl
@[simp] theorem takeFault_fault (e : Raised) (w : Word) : (s.takeFault e w).fault = some { cause := e.cause, pc0 := s.pc, word := w, info := e.info } := rfl
@[simp] theorem takeFault_draws (e : Raised) (w : Word) : (s.takeFault e w).draws = s.draws := rfl
@[simp] theorem takeFault_events (e : Raised) (w : Word) : (s.takeFault e w).events = s.events := rfl
@[simp] theorem takeFault_loadOpen (e : Raised) (w : Word) : (s.takeFault e w).loadOpen = s.loadOpen := rfl
@[simp] theorem takeFault_loadRefusal (e : Raised) (w : Word) : (s.takeFault e w).loadRefusal = s.loadRefusal := rfl
@[simp] theorem reg_takeFault (e : Raised) (w : Word) (r : Reg) : (s.takeFault e w).reg r = s.reg r := rfl
@[simp] theorem readByte_takeFault (e : Raised) (w : Word) (m : Nat) : (s.takeFault e w).readByte m = s.readByte m := rfl
@[simp] theorem nextPc_takeFault (e : Raised) (w : Word) : (s.takeFault e w).nextPc = s.nextPc := rfl

/-! ### `setFlag` -/

@[simp] theorem setFlag_params (c : Bool) : (s.setFlag c).params = s.params := rfl
@[simp] theorem setFlag_mem (c : Bool) : (s.setFlag c).mem = s.mem := rfl
@[simp] theorem setFlag_v (c : Bool) : (s.setFlag c).v = s.v.set 15 (flagByte c) := rfl
@[simp] theorem setFlag_index (c : Bool) : (s.setFlag c).index = s.index := rfl
@[simp] theorem setFlag_pc (c : Bool) : (s.setFlag c).pc = s.pc := rfl
@[simp] theorem setFlag_stack (c : Bool) : (s.setFlag c).stack = s.stack := rfl
@[simp] theorem setFlag_sp (c : Bool) : (s.setFlag c).sp = s.sp := rfl
@[simp] theorem setFlag_dt (c : Bool) : (s.setFlag c).dt = s.dt := rfl
@[simp] theorem setFlag_st (c : Bool) : (s.setFlag c).st = s.st := rfl
@[simp] theorem setFlag_keys (c : Bool) : (s.setFlag c).keys = s.keys := rfl
@[simp] theorem setFlag_fb (c : Bool) : (s.setFlag c).fb = s.fb := rfl
@[simp] theorem setFlag_dirty (c : Bool) : (s.setFlag c).dirty = s.dirty := rfl
@[simp] theorem setFlag_fault (c : Bool) : (s.setFlag c).fault = s.fault := rfl
@[simp] theorem setFlag_draws (c : Bool) : (s.setFlag c).draws = s.draws := rfl
@[simp] theorem setFlag_events (c : Bool) : (s.setFlag c).events = s.events := rfl
@[simp] theorem setFlag_loadOpen (c : Bool) : (s.setFlag c).loadOpen = s.loadOpen := rfl
@[simp] theorem setFlag_loadRefusal (c : Bool) : (s.setFlag c).loadRefusal = s.loadRefusal := rfl
@[simp] theorem readByte_setFlag (c : Bool) (m : Nat) : (s.setFlag c).readByte m = s.readByte m := rfl
@[simp] theorem nextPc_setFlag (c : Bool) : (s.setFlag c).nextPc = s.nextPc := rfl

/-! ### `present` -/

@[simp] theorem present_params (fb : Vector PixelRow 32) : (s.present fb).params = s.params := rfl
@[simp] theorem present_mem (fb : Vector PixelRow 32) : (s.present fb).mem = s.mem := rfl
@[simp] theorem present_v (fb : Vector PixelRow 32) : (s.present fb).v = s.v := rfl
@[simp] theorem present_index (fb : Vector PixelRow 32) : (s.present fb).index = s.index := rfl
@[simp] theorem present_pc (fb : Vector PixelRow 32) : (s.present fb).pc = s.pc := rfl
@[simp] theorem present_stack (fb : Vector PixelRow 32) : (s.present fb).stack = s.stack := rfl
@[simp] theorem present_sp (fb : Vector PixelRow 32) : (s.present fb).sp = s.sp := rfl
@[simp] theorem present_dt (fb : Vector PixelRow 32) : (s.present fb).dt = s.dt := rfl
@[simp] theorem present_st (fb : Vector PixelRow 32) : (s.present fb).st = s.st := rfl
@[simp] theorem present_keys (fb : Vector PixelRow 32) : (s.present fb).keys = s.keys := rfl
@[simp] theorem present_fb (fb : Vector PixelRow 32) : (s.present fb).fb = fb := rfl
@[simp] theorem present_dirty (fb : Vector PixelRow 32) : (s.present fb).dirty = true := rfl
@[simp] theorem present_fault (fb : Vector PixelRow 32) : (s.present fb).fault = s.fault := rfl
@[simp] theorem present_draws (fb : Vector PixelRow 32) : (s.present fb).draws = s.draws := rfl
@[simp] theorem present_events (fb : Vector PixelRow 32) : (s.present fb).events = s.events := rfl
@[simp] theorem present_loadOpen (fb : Vector PixelRow 32) : (s.present fb).loadOpen = s.loadOpen := rfl
@[simp] theorem present_loadRefusal (fb : Vector PixelRow 32) : (s.present fb).loadRefusal = s.loadRefusal := rfl
@[simp] theorem reg_present (fb : Vector PixelRow 32) (r : Reg) : (s.present fb).reg r = s.reg r := rfl
@[simp] theorem readByte_present (fb : Vector PixelRow 32) (m : Nat) : (s.present fb).readByte m = s.readByte m := rfl
@[simp] theorem nextPc_present (fb : Vector PixelRow 32) : (s.present fb).nextPc = s.nextPc := rfl

/-! ### `tick` -/

@[simp] theorem tick_params : s.tick.params = s.params := rfl
@[simp] theorem tick_mem : s.tick.mem = s.mem := rfl
@[simp] theorem tick_v : s.tick.v = s.v := rfl
@[simp] theorem tick_index : s.tick.index = s.index := rfl
@[simp] theorem tick_pc : s.tick.pc = s.pc := rfl
@[simp] theorem tick_stack : s.tick.stack = s.stack := rfl
@[simp] theorem tick_sp : s.tick.sp = s.sp := rfl
@[simp] theorem tick_dt : s.tick.dt = if s.dt = 0 then 0 else s.dt - 1 := rfl
@[simp] theorem tick_st : s.tick.st = if s.st = 0 then 0 else s.st - 1 := rfl
@[simp] theorem tick_keys : s.tick.keys = s.keys := rfl
@[simp] theorem tick_fb : s.tick.fb = s.fb := rfl
@[simp] theorem tick_dirty : s.tick.dirty = s.dirty := rfl
@[simp] theorem tick_fault : s.tick.fault = s.fault := rfl
@[simp] theorem tick_draws : s.tick.draws = s.draws := rfl
@[simp] theorem tick_events : s.tick.events = s.events := rfl
@[simp] theorem tick_loadOpen : s.tick.loadOpen = s.loadOpen := rfl
@[simp] theorem tick_loadRefusal : s.tick.loadRefusal = s.loadRefusal := rfl
@[simp] theorem reg_tick (r : Reg) : s.tick.reg r = s.reg r := rfl
@[simp] theorem readByte_tick (m : Nat) : s.tick.readByte m = s.readByte m := rfl
@[simp] theorem nextPc_tick : s.tick.nextPc = s.nextPc := rfl

/-! ### `setKeys` -/

@[simp] theorem setKeys_params (k : BitVec 16) : (s.setKeys k).params = s.params := rfl
@[simp] theorem setKeys_mem (k : BitVec 16) : (s.setKeys k).mem = s.mem := rfl
@[simp] theorem setKeys_v (k : BitVec 16) : (s.setKeys k).v = s.v := rfl
@[simp] theorem setKeys_index (k : BitVec 16) : (s.setKeys k).index = s.index := rfl
@[simp] theorem setKeys_pc (k : BitVec 16) : (s.setKeys k).pc = s.pc := rfl
@[simp] theorem setKeys_stack (k : BitVec 16) : (s.setKeys k).stack = s.stack := rfl
@[simp] theorem setKeys_sp (k : BitVec 16) : (s.setKeys k).sp = s.sp := rfl
@[simp] theorem setKeys_dt (k : BitVec 16) : (s.setKeys k).dt = s.dt := rfl
@[simp] theorem setKeys_st (k : BitVec 16) : (s.setKeys k).st = s.st := rfl
@[simp] theorem setKeys_keys (k : BitVec 16) : (s.setKeys k).keys = k := rfl
@[simp] theorem setKeys_fb (k : BitVec 16) : (s.setKeys k).fb = s.fb := rfl
@[simp] theorem setKeys_dirty (k : BitVec 16) : (s.setKeys k).dirty = s.dirty := rfl
@[simp] theorem setKeys_fault (k : BitVec 16) : (s.setKeys k).fault = s.fault := rfl
@[simp] theorem setKeys_draws (k : BitVec 16) : (s.setKeys k).draws = s.draws := rfl
@[simp] theorem setKeys_events (k : BitVec 16) : (s.setKeys k).events = s.events := rfl
@[simp] theorem setKeys_loadOpen (k : BitVec 16) : (s.setKeys k).loadOpen = s.loadOpen := rfl
@[simp] theorem setKeys_loadRefusal (k : BitVec 16) : (s.setKeys k).loadRefusal = s.loadRefusal := rfl
@[simp] theorem reg_setKeys (k : BitVec 16) (r : Reg) : (s.setKeys k).reg r = s.reg r := rfl
@[simp] theorem readByte_setKeys (k : BitVec 16) (m : Nat) : (s.setKeys k).readByte m = s.readByte m := rfl
@[simp] theorem nextPc_setKeys (k : BitVec 16) : (s.setKeys k).nextPc = s.nextPc := rfl

/-! ### `frameAck` -/

@[simp] theorem frameAck_params : s.frameAck.params = s.params := rfl
@[simp] theorem frameAck_mem : s.frameAck.mem = s.mem := rfl
@[simp] theorem frameAck_v : s.frameAck.v = s.v := rfl
@[simp] theorem frameAck_index : s.frameAck.index = s.index := rfl
@[simp] theorem frameAck_pc : s.frameAck.pc = s.pc := rfl
@[simp] theorem frameAck_stack : s.frameAck.stack = s.stack := rfl
@[simp] theorem frameAck_sp : s.frameAck.sp = s.sp := rfl
@[simp] theorem frameAck_dt : s.frameAck.dt = s.dt := rfl
@[simp] theorem frameAck_st : s.frameAck.st = s.st := rfl
@[simp] theorem frameAck_keys : s.frameAck.keys = s.keys := rfl
@[simp] theorem frameAck_fb : s.frameAck.fb = s.fb := rfl
@[simp] theorem frameAck_dirty : s.frameAck.dirty = false := rfl
@[simp] theorem frameAck_fault : s.frameAck.fault = s.fault := rfl
@[simp] theorem frameAck_draws : s.frameAck.draws = s.draws := rfl
@[simp] theorem frameAck_events : s.frameAck.events = s.events := rfl
@[simp] theorem frameAck_loadOpen : s.frameAck.loadOpen = s.loadOpen := rfl
@[simp] theorem frameAck_loadRefusal : s.frameAck.loadRefusal = s.loadRefusal := rfl
@[simp] theorem reg_frameAck (r : Reg) : s.frameAck.reg r = s.reg r := rfl
@[simp] theorem readByte_frameAck (m : Nat) : s.frameAck.readByte m = s.readByte m := rfl
@[simp] theorem nextPc_frameAck : s.frameAck.nextPc = s.nextPc := rfl

/-! ### `begin` -/

@[simp] theorem begin_params : s.begin.params = s.params := rfl
@[simp] theorem begin_mem : s.begin.mem = s.mem := rfl
@[simp] theorem begin_v : s.begin.v = s.v := rfl
@[simp] theorem begin_index : s.begin.index = s.index := rfl
@[simp] theorem begin_pc : s.begin.pc = s.pc := rfl
@[simp] theorem begin_stack : s.begin.stack = s.stack := rfl
@[simp] theorem begin_sp : s.begin.sp = s.sp := rfl
@[simp] theorem begin_dt : s.begin.dt = s.dt := rfl
@[simp] theorem begin_st : s.begin.st = s.st := rfl
@[simp] theorem begin_keys : s.begin.keys = s.keys := rfl
@[simp] theorem begin_fb : s.begin.fb = s.fb := rfl
@[simp] theorem begin_dirty : s.begin.dirty = s.dirty := rfl
@[simp] theorem begin_fault : s.begin.fault = s.fault := rfl
@[simp] theorem begin_draws : s.begin.draws = s.draws := rfl
@[simp] theorem begin_events : s.begin.events = s.events := rfl
@[simp] theorem begin_loadOpen : s.begin.loadOpen = false := rfl
@[simp] theorem begin_loadRefusal : s.begin.loadRefusal = s.loadRefusal := rfl
@[simp] theorem reg_begin (r : Reg) : s.begin.reg r = s.reg r := rfl
@[simp] theorem readByte_begin (m : Nat) : s.begin.readByte m = s.readByte m := rfl
@[simp] theorem nextPc_begin : s.begin.nextPc = s.nextPc := rfl

/-! ### `dequeue` -/

@[simp] theorem dequeue_params : s.dequeue.params = s.params := rfl
@[simp] theorem dequeue_mem : s.dequeue.mem = s.mem := rfl
@[simp] theorem dequeue_v : s.dequeue.v = s.v := rfl
@[simp] theorem dequeue_index : s.dequeue.index = s.index := rfl
@[simp] theorem dequeue_pc : s.dequeue.pc = s.pc := rfl
@[simp] theorem dequeue_stack : s.dequeue.stack = s.stack := rfl
@[simp] theorem dequeue_sp : s.dequeue.sp = s.sp := rfl
@[simp] theorem dequeue_dt : s.dequeue.dt = s.dt := rfl
@[simp] theorem dequeue_st : s.dequeue.st = s.st := rfl
@[simp] theorem dequeue_keys : s.dequeue.keys = s.keys := rfl
@[simp] theorem dequeue_fb : s.dequeue.fb = s.fb := rfl
@[simp] theorem dequeue_dirty : s.dequeue.dirty = s.dirty := rfl
@[simp] theorem dequeue_fault : s.dequeue.fault = s.fault := rfl
@[simp] theorem dequeue_draws : s.dequeue.draws = s.draws := rfl
@[simp] theorem dequeue_events : s.dequeue.events = s.events.tail := rfl
@[simp] theorem dequeue_loadOpen : s.dequeue.loadOpen = s.loadOpen := rfl
@[simp] theorem dequeue_loadRefusal : s.dequeue.loadRefusal = s.loadRefusal := rfl
@[simp] theorem reg_dequeue (r : Reg) : s.dequeue.reg r = s.reg r := rfl
@[simp] theorem readByte_dequeue (m : Nat) : s.dequeue.readByte m = s.readByte m := rfl
@[simp] theorem nextPc_dequeue : s.dequeue.nextPc = s.nextPc := rfl

/-! ### Registers -/

/-- Reading a register after writing one. -/
@[simp] theorem reg_setReg (x r : Reg) (b : Byte) : (s.setReg x b).reg r = if r = x then b else s.reg r := by
  simp only [reg, setReg, Vector.getElem_set, Fin.ext_iff, eq_comm]

/-- Reading a register after the flag write: only VF changes. -/
@[simp] theorem reg_setFlag (r : Reg) (c : Bool) :
    (s.setFlag c).reg r = if r = 15 then flagByte c else s.reg r :=
  reg_setReg s 15 r (flagByte c)

/-- Reading a register after LD_REGS wrote the first `bs.length` of them. -/
@[simp] theorem reg_setRegs (bs : List Byte) (r : Reg) :
    (s.setRegs bs).reg r = (bs[r.val]?).getD (s.reg r) := by
  simp [reg, setRegs]

/-- Two register files that read alike are equal. -/
theorem v_ext {s t : State} (h : ∀ r, t.reg r = s.reg r) : t.v = s.v :=
  Vector.ext fun k hk => h ⟨k, hk⟩

end Sys2Proof.Machine.State
end

