-- ==== Sys2Proof/Laws/Memory.lean ====
section
/-! SUPPORT. The laws of memory: a read after a write, and that every memory operation keeps the canonical form. -/

namespace Sys2Proof.Machine

namespace Memory

theorem lookup_put (m : List Host.Cell) (a : Nat) (v : Byte) (b : Nat) :
    lookup (put m a v) b = if b = a then some v else lookup m b := by
  induction m with
  | nil => rfl
  | cons c m ih =>
    obtain ⟨k, w⟩ := c
    simp only [put]
    split
    · rfl
    · split
      · subst k
        simp only [lookup]
        split <;> rfl
      · simp only [lookup, ih]
        split
        · subst b
          rw [if_neg (by omega)]
        · rfl

theorem lookup_erase (m : List Host.Cell) (a b : Nat) :
    lookup (erase m a) b = if b = a then none else lookup m b := by
  induction m with
  | nil => simp [erase, lookup]
  | cons c m ih =>
    obtain ⟨k, w⟩ := c
    simp only [erase] at ih
    by_cases hk : k = a
    · subst k
      simp only [erase, List.filter_cons, bne_self_eq_false, Bool.false_eq_true, ite_false, lookup, ih]
      split <;> rfl
    · simp only [erase, List.filter_cons, bne_iff_ne, ne_eq, hk, not_false_eq_true, ite_true, lookup, ih]
      split
      · subst b
        rw [if_neg hk]
      · rfl

/-- A read after a write: the byte written at its address, every other address as before. -/
theorem read_write (p : Config.Params) (m : List Host.Cell) (a : Nat) (v : Byte) (b : Nat) :
    read p (write p m a v) b = if b = a then v else read p m b := by
  simp only [read, write]
  by_cases hv : v = resetByte p a
  · rw [if_pos hv, lookup_erase]
    by_cases hb : b = a
    · simp [hb, hv]
    · simp [hb]
  · rw [if_neg hv, lookup_put]
    by_cases hb : b = a
    · simp [hb]
    · simp [hb]

/-- Every cell of an extended list is the new one or an old one. -/
theorem mem_put {m : List Host.Cell} {a : Nat} {v : Byte} {c : Host.Cell} (h : c ∈ put m a v) :
    c = (a, v) ∨ c ∈ m := by
  induction m with
  | nil => simpa [put] using h
  | cons d m ih =>
    obtain ⟨k, w⟩ := d
    simp only [put] at h
    split at h
    · simpa using h
    · split at h
      · rcases List.mem_cons.1 h with h | h
        · exact .inl h
        · exact .inr (List.mem_cons_of_mem _ h)
      · rcases List.mem_cons.1 h with h | h
        · exact .inr (h ▸ List.mem_cons_self)
        · exact (ih h).imp id (List.mem_cons_of_mem _)

theorem pairwise_put {m : List Host.Cell} (a : Nat) (v : Byte) (h : m.Pairwise (fun c d => c.1 < d.1)) :
    (put m a v).Pairwise (fun c d => c.1 < d.1) := by
  induction m with
  | nil => simp [put]
  | cons d m ih =>
    obtain ⟨k, w⟩ := d
    obtain ⟨hk, hm⟩ := List.pairwise_cons.1 h
    simp only [put]
    split
    · refine List.pairwise_cons.2 ⟨fun c hc => ?_, h⟩
      rcases List.mem_cons.1 hc with rfl | hc
      · assumption
      · have := hk c hc
        simp only at this ⊢
        omega
    · split
      · subst k
        exact List.pairwise_cons.2 ⟨hk, hm⟩
      · refine List.pairwise_cons.2 ⟨fun c hc => ?_, ih hm⟩
        rcases mem_put hc with rfl | hc
        · simp only
          omega
        · exact hk c hc

/-- A write inside the address space keeps the canonical form. -/
theorem wf_write {p : Config.Params} {m : List Host.Cell} {a : Nat} (v : Byte) (ha : a < 0x1000) (h : wf p m) :
    wf p (write p m a v) := by
  unfold write
  split
  · exact ⟨h.1.filter _, fun c hc => h.2 c (List.mem_filter.1 hc).1⟩
  · refine ⟨pairwise_put a v h.1, fun c hc => ?_⟩
    rcases mem_put hc with rfl | hc
    · exact ⟨ha, ‹_›⟩
    · exact h.2 c hc

theorem wf_nil (p : Config.Params) : wf p [] := ⟨List.Pairwise.nil, by simp⟩

end Memory

namespace State

/-- `readByte` after `writeByte`. -/
theorem readByte_writeByte (s : State) (a : Nat) (v : Byte) (b : Nat) :
    (s.writeByte a v).readByte b = if b = a then v else s.readByte b :=
  Memory.read_write s.params s.mem a v b

/-- A block write changes memory only. -/
theorem writeBytes_eq (s : State) (a : Nat) (bs : List Byte) :
    s.writeBytes a bs = { s with mem := (s.writeBytes a bs).mem } := by
  induction bs generalizing s a with
  | nil => rfl
  | cons b bs ih =>
    rw [writeBytes, ih]
    rfl

@[simp] theorem writeBytes_params (s : State) (a : Nat) (bs : List Byte) : (s.writeBytes a bs).params = s.params := by
  rw [writeBytes_eq]

@[simp] theorem writeBytes_pc (s : State) (a : Nat) (bs : List Byte) : (s.writeBytes a bs).pc = s.pc := by
  rw [writeBytes_eq]

@[simp] theorem nextPc_writeBytes (s : State) (a : Nat) (bs : List Byte) : (s.writeBytes a bs).nextPc = s.nextPc := by
  rw [writeBytes_eq]
  rfl

@[simp] theorem reg_writeBytes (s : State) (a : Nat) (bs : List Byte) (r : Reg) :
    (s.writeBytes a bs).reg r = s.reg r := by
  rw [writeBytes_eq]
  rfl

/-- `readByte` after a block write: byte `k` of the block at `a + k`, every other address as before. -/
theorem readByte_writeBytes (s : State) (a : Nat) (bs : List Byte) (b : Nat) :
    (s.writeBytes a bs).readByte b =
      if a ≤ b ∧ b < a + bs.length then (bs[b - a]?).getD 0 else s.readByte b := by
  induction bs generalizing s a with
  | nil =>
    rw [if_neg (by simp)]
    rfl
  | cons v bs ih =>
    rw [writeBytes, ih, readByte_writeByte, List.length_cons]
    rcases Nat.lt_trichotomy b a with h | rfl | h
    · rw [if_neg (by omega), if_neg (by omega), if_neg (by omega)]
    · rw [if_neg (by omega), if_pos rfl, if_pos (by omega), Nat.sub_self]
      rfl
    · by_cases hb : b < a + 1 + bs.length
      · rw [if_pos (by omega), if_pos (by omega), show b - a = (b - (a + 1)) + 1 by omega,
          List.getElem?_cons_succ]
      · rw [if_neg (by omega), if_neg (by omega), if_neg (by omega)]

/-- A block write inside the address space keeps the canonical form. -/
theorem wf_writeBytes {s : State} {a : Nat} {bs : List Byte} (h : Memory.wf s.params s.mem)
    (ha : a + bs.length ≤ 0x1000) : Memory.wf s.params (s.writeBytes a bs).mem := by
  induction bs generalizing s a with
  | nil => exact h
  | cons b bs ih =>
    rw [List.length_cons] at ha
    exact ih (s := s.writeByte a b) (Memory.wf_write b (by omega) h) (by omega)

/-- The bytes of a block, by index. -/
theorem getElem?_readBytes (s : State) (a n k : Nat) :
    (s.readBytes a n)[k]? = if k < n then some (s.readByte (a + k)) else none := by
  simp only [readBytes, List.getElem?_map]
  split
  · rw [List.getElem?_range (by assumption)]
    rfl
  · rw [List.getElem?_eq_none (by simp; omega)]
    rfl

@[simp] theorem getElem_readBytes (s : State) (a n k : Nat) (h : k < (s.readBytes a n).length) :
    (s.readBytes a n)[k] = s.readByte (a + k) := by
  simp [readBytes]

@[simp] theorem length_readBytes (s : State) (a n : Nat) : (s.readBytes a n).length = n := by
  simp [readBytes]

end State

end Sys2Proof.Machine
end

