-- ==== Sys2Proof/Laws/Ops.lean ====
section
/-! SUPPORT. What each shared operation can do, said once: the bounds check, the checked accesses, push and pop, the
fault entry, the key test, the key choice and the compositor. -/

namespace Sys2Proof.Machine

/-! ### Bounds (R54, R55) -/

/-- The bounds check passes exactly when the access touches no byte or ends at or below 0xFFF. -/
theorem outOfBounds_eq_none {a n : Nat} : outOfBounds a n = none ↔ n = 0 ∨ a + n ≤ 0x1000 := by
  unfold outOfBounds
  split <;> simp only [reduceCtorEq, false_iff, true_iff] <;> omega

/-- When the bounds check raises, and what. -/
theorem outOfBounds_eq_some {a n : Nat} {r : Raised} :
    outOfBounds a n = some r ↔ 1 ≤ n ∧ 0x1000 < a + n ∧ r = ⟨.outOfBoundsAccess, max a 0x1000⟩ := by
  unfold outOfBounds
  split
  · rw [Option.some.injEq, eq_comm]
    constructor
    · exact fun h => ⟨by omega, by omega, h⟩
    · exact fun h => h.2.2
  · simp only [reduceCtorEq, false_iff, not_and]
    omega

namespace State

theorem readRange_ok {s : State} {a n : Nat} {bs : List Byte} :
    s.readRange a n = .ok bs ↔ outOfBounds a n = none ∧ bs = s.readBytes a n := by
  unfold readRange
  cases outOfBounds a n <;> simp [eq_comm]

theorem readRange_error {s : State} {a n : Nat} {r : Raised} :
    s.readRange a n = .error r ↔ outOfBounds a n = some r := by
  unfold readRange
  cases outOfBounds a n <;> simp

theorem writeRange_ok {s t : State} {a : Nat} {bs : List Byte} :
    s.writeRange a bs = .ok t ↔ outOfBounds a bs.length = none ∧ t = s.writeBytes a bs := by
  unfold writeRange
  cases outOfBounds a bs.length <;> simp [eq_comm]

theorem writeRange_error {s : State} {a : Nat} {bs : List Byte} {r : Raised} :
    s.writeRange a bs = .error r ↔ outOfBounds a bs.length = some r := by
  unfold writeRange
  cases outOfBounds a bs.length <;> simp

theorem fetchWord_ok {s : State} {w : Word} :
    s.fetchWord = .ok w ↔
      s.pc.toNat ≤ 0xFFE ∧ w = wordOfBytes (s.readByte s.pc.toNat) (s.readByte (s.pc.toNat + 1)) := by
  unfold fetchWord
  split
  · rename_i h
    rw [outOfBounds_eq_some] at h
    simp only [reduceCtorEq, false_iff, not_and]
    omega
  · rename_i h
    rw [outOfBounds_eq_none] at h
    simp only [Except.ok.injEq, eq_comm, iff_and_self]
    omega

theorem fetchWord_error {s : State} {r : Raised} :
    s.fetchWord = .error r ↔ 0xFFF ≤ s.pc.toNat ∧ r = ⟨.outOfBoundsAccess, max s.pc.toNat 0x1000⟩ := by
  unfold fetchWord
  split
  · rename_i h
    rw [outOfBounds_eq_some] at h
    simp only [h.2.2, Except.error.injEq, eq_comm, iff_and_self]
    omega
  · rename_i h
    rw [outOfBounds_eq_none] at h
    simp only [reduceCtorEq, false_iff, not_and]
    omega

/-! ### The call stack (R30) -/

/-- A push that succeeds: the entry at the old SP, SP one higher, nothing else. -/
theorem push_ok {s t : State} {w : Word} (h : s.push w = .ok t) :
    ∃ hs : s.sp.val < 16, t.sp.val = s.sp.val + 1 ∧ t.stack = s.stack.set s.sp.val w ∧
      { t with stack := s.stack, sp := s.sp } = s := by
  unfold push at h
  split at h
  · rename_i hs
    cases h
    exact ⟨hs, rfl, rfl, rfl⟩
  · cases h

theorem push_error {s : State} {w : Word} {r : Raised} :
    s.push w = .error r ↔ s.sp.val = 16 ∧ r = ⟨.stackOverflow, 0⟩ := by
  have := s.sp.isLt
  unfold push
  split
  · simp only [reduceCtorEq, false_iff, not_and]
    omega
  · simp only [Except.error.injEq, eq_comm, iff_and_self]
    omega

/-- A pop that succeeds: the newest live entry, SP one lower, nothing else. -/
theorem pop_ok {s t : State} {w : Word} (h : s.pop = .ok (w, t)) :
    ∃ hs : 0 < s.sp.val, w = s.stack[s.sp.val - 1]'(by omega) ∧ t.sp.val = s.sp.val - 1 ∧
      { t with sp := s.sp } = s := by
  unfold pop at h
  split at h
  · rename_i hs
    cases h
    exact ⟨hs, rfl, rfl, rfl⟩
  · cases h

theorem pop_error {s : State} {r : Raised} : s.pop = .error r ↔ s.sp.val = 0 ∧ r = ⟨.stackUnderflow, 0⟩ := by
  unfold pop
  split
  · simp only [reduceCtorEq, false_iff, not_and]
    omega
  · simp only [Except.error.injEq, eq_comm, iff_and_self]
    omega

end State

/-! ### The end of an instruction -/

/-- An instruction with a check of its own always answers a next state: all its writes, or the fault entry alone. -/
theorem settle_next {i : Instr} {s t : State} {r : Except Raised State} (h : settle i s r = .next t) :
    r = .ok t ∨ ∃ e, r = .error e ∧ t = s.takeFault e (encode i) := by
  cases r with
  | ok u => exact .inl (by simpa [settle] using h)
  | error e => exact .inr ⟨e, rfl, by simpa [settle, eq_comm] using h⟩

/-- The same for a checked operation `e` followed by writes that cannot fail. -/
theorem settle_map_next {α : Type} {i : Instr} {s t : State} {e : Except Raised α} {f : α → State}
    (h : settle i s (e.map f) = .next t) :
    (∃ a, e = .ok a ∧ t = f a) ∨ ∃ r, e = .error r ∧ t = s.takeFault r (encode i) := by
  cases e with
  | ok a => exact .inl ⟨a, rfl, by simpa [settle, Except.map, eq_comm] using h⟩
  | error r => exact .inr ⟨r, rfl, by simpa [settle, Except.map, eq_comm] using h⟩

@[simp] theorem settle_ok (i : Instr) (s t : State) : settle i s (.ok t) = .next t := rfl

@[simp] theorem settle_error (i : Instr) (s : State) (r : Raised) :
    settle i s (.error r) = .next (s.takeFault r (encode i)) := rfl

/-! ### Keys (R160, R166) -/

theorem keyPressed_of_le {s : State} {b : Byte} (h : b.toNat ≤ 15) :
    keyPressed s b = .ok (s.keys.getLsbD b.toNat) := by
  rw [keyPressed, if_neg (by omega)]

theorem keyPressed_of_gt {s : State} {b : Byte} (h : 15 < b.toNat) :
    keyPressed s b = .error ⟨.keyIndexOutOfRange, b.toNat⟩ := by
  rw [keyPressed, if_pos h]

theorem mem_pressedKeys {keys : BitVec 16} {k : Reg} : k ∈ pressedKeys keys ↔ keys.getLsbD k.val = true := by
  simp [pressedKeys]

/-- No key is selected exactly when none is pressed. -/
theorem selectKey_eq_none {policy : Config.KeySelect} {d : Nat} {ks : List Reg} :
    selectKey policy d ks = none ↔ ks = [] := by
  match ks with
  | [] => simp [selectKey]
  | [k] => simp [selectKey]
  | k :: k' :: ks =>
    have : d % (ks.length + 2) < ks.length + 2 := Nat.mod_lt _ (by omega)
    cases policy <;> simp [selectKey, this]

/-- Only a pressed key is selected. -/
theorem selectKey_mem {policy : Config.KeySelect} {d : Nat} {ks : List Reg} {k : Reg}
    (h : selectKey policy d ks = some k) : k ∈ ks := by
  match ks with
  | [] => simp [selectKey] at h
  | [j] => simp_all [selectKey]
  | j :: j' :: ks =>
    cases policy with
    | any => exact List.mem_of_getElem? h
    | lowest => simp_all [selectKey]
    | highest => exact List.mem_cons_of_mem _ (List.mem_of_getLast? h)

/-! ### The compositor (R152) -/

/-- Reading a pixel after toggling one on the grid. -/
theorem pixelOn_togglePixel (fb : Vector PixelRow 32) {yy xx : Nat} (hy : yy < 32) (hx : xx < 64) (yy' xx' : Nat) :
    pixelOn (togglePixel fb yy xx) yy' xx' =
      (pixelOn fb yy' xx' ^^ (decide (yy' = yy) && decide (xx' = xx))) := by
  unfold pixelOn togglePixel
  rw [dif_pos hy]
  split
  · rw [Vector.getElem_set]
    split
    · subst yy'
      simp only [BitVec.getLsbD_xor, BitVec.getLsbD_twoPow, hx, decide_true, Bool.true_and]
      rw [decide_eq_decide.2 (eq_comm (a := xx) (b := xx'))]
    · simp [show ¬ yy' = yy by omega]
  · simp [show ¬ yy' = yy by omega]

/-- Toggling one pixel twice restores the framebuffer. -/
theorem togglePixel_twice (fb : Vector PixelRow 32) (yy xx : Nat) :
    togglePixel (togglePixel fb yy xx) yy xx = fb := by
  unfold togglePixel
  split
  · simp
  · rfl

/-- The framebuffer after a sprite: every cell toggled in turn. -/
theorem composite_fb (fb : Vector PixelRow 32) (cells : List (Nat × Nat)) :
    (composite fb cells).fb = cells.foldl (fun f c => togglePixel f c.1 c.2) fb := by
  unfold composite
  generalize false = c
  induction cells generalizing fb c with
  | nil => rfl
  | cons d ds ih => exact ih _ _

end Sys2Proof.Machine
end

