-- ==== Sys2Proof/Laws/Compositor.lean ====
section
/-! SUPPORT. Everything the Display Compositor (R152) can do to a framebuffer, pixel by pixel. -/

namespace Sys2Proof.Machine

/-- Two framebuffers with the same pixels are the same. -/
theorem fb_ext {f g : Vector PixelRow 32} (h : ∀ yy < 32, ∀ xx < 64, pixelOn f yy xx = pixelOn g yy xx) : f = g := by
  refine Vector.ext fun yy hy => BitVec.eq_of_getLsbD_eq fun xx hx => ?_
  simpa [pixelOn, hy] using h yy hy xx hx

theorem pixelOn_blankFb (yy xx : Nat) : pixelOn blankFb yy xx = false := by
  unfold pixelOn blankFb
  split
  · rw [Vector.getElem_replicate]
    exact BitVec.getLsbD_zero
  · rfl

/-- A pixel lands on the grid. -/
theorem landing_on_grid {policy : Config.EdgePolicy} {py px : Nat} {cell : Nat × Nat}
    (h : landing policy py px = some cell) : cell.1 < 32 ∧ cell.2 < 64 := by
  cases policy <;> simp only [landing, Option.ite_none_right_eq_some, Option.some.injEq] at h
  · obtain ⟨h, rfl⟩ := h
    omega
  · subst h
    simp only
    omega

theorem mem_rowCells {policy : Config.EdgePolicy} {x0 py : Nat} {b : Byte} {cell : Nat × Nat} :
    cell ∈ rowCells policy x0 py b ↔
      ∃ c < 8, b.getLsbD (7 - c) = true ∧ landing policy py (x0 + c) = some cell := by
  simp [rowCells, List.mem_filterMap, Option.ite_none_right_eq_some]

/-- The cells of a sprite: row `r`, bit `7 - c`, landing at row y0 + r, column x0 + c. -/
theorem mem_spriteCells {policy : Config.EdgePolicy} {x0 y0 : Nat} {bs : List Byte} {cell : Nat × Nat} :
    cell ∈ spriteCells policy x0 y0 bs ↔
      ∃ (r : Nat) (h : r < bs.length), ∃ c < 8, bs[r].getLsbD (7 - c) = true ∧
        landing policy (y0 + r) (x0 + c) = some cell := by
  induction bs generalizing y0 with
  | nil => simp [spriteCells]
  | cons b bs ih =>
    rw [spriteCells, List.mem_append, mem_rowCells, ih]
    constructor
    · rintro (h | ⟨r, hr, h⟩)
      · exact ⟨0, by simp, h⟩
      · exact ⟨r + 1, by simpa using hr, by simpa [Nat.add_assoc, Nat.add_comm 1] using h⟩
    · rintro ⟨r | r, hr, h⟩
      · exact .inl h
      · exact .inr ⟨r, by simpa using hr, by simpa [Nat.add_assoc, Nat.add_comm 1] using h⟩

/-- Two pixels less than 32 rows and 64 columns apart that land on the same cell are the same pixel. -/
theorem landing_inj {policy : Config.EdgePolicy} {y0 x0 r c r' c' : Nat} {cell : Nat × Nat} (hr : r < 32) (hr' : r' < 32)
    (hc : c < 64) (hc' : c' < 64) (h : landing policy (y0 + r) (x0 + c) = some cell)
    (h' : landing policy (y0 + r') (x0 + c') = some cell) : r = r' ∧ c = c' := by
  cases policy <;> simp only [landing, Option.ite_none_right_eq_some, Option.some.injEq] at h h'
  · obtain ⟨-, rfl⟩ := h
    have := h'.2
    simp only [Prod.mk.injEq] at this
    omega
  · subst h
    simp only [Prod.mk.injEq] at h'
    omega

theorem nodup_rowCells (policy : Config.EdgePolicy) (x0 py : Nat) (b : Byte) : (rowCells policy x0 py b).Nodup := by
  unfold rowCells
  rw [List.Nodup, List.pairwise_filterMap]
  refine List.pairwise_lt_range.imp_of_mem fun {c c'} hc hc' lt => ?_
  simp only [List.mem_range] at hc hc'
  rintro cell h cell' h' rfl
  simp only [Option.ite_none_right_eq_some] at h h'
  have := landing_inj (y0 := py) (r := 0) (r' := 0) (by omega) (by omega) (by omega) (by omega) h.2 h'.2
  omega

/-- No cell of a sprite of up to 32 rows is toggled twice. -/
theorem nodup_spriteCells (policy : Config.EdgePolicy) (x0 y0 : Nat) (bs : List Byte) (h : bs.length ≤ 32) :
    (spriteCells policy x0 y0 bs).Nodup := by
  induction bs generalizing y0 with
  | nil => simp [spriteCells]
  | cons b bs ih =>
    simp only [List.length_cons] at h
    rw [spriteCells, List.nodup_append]
    refine ⟨nodup_rowCells .., ih _ (by omega), ?_⟩
    rintro cell hb _ hbs rfl
    obtain ⟨c, hc, -, hl⟩ := mem_rowCells.1 hb
    obtain ⟨r, hr, c', hc', -, hl'⟩ := mem_spriteCells.1 hbs
    rw [Nat.add_assoc] at hl'
    have := landing_inj (y0 := y0) (r := 0) (by omega) (by omega) (by omega) (by omega) hl hl'
    omega

theorem spriteCells_on_grid {policy : Config.EdgePolicy} {x0 y0 : Nat} {bs : List Byte} {cell : Nat × Nat}
    (h : cell ∈ spriteCells policy x0 y0 bs) : cell.1 < 32 ∧ cell.2 < 64 := by
  obtain ⟨_, _, _, _, _, h⟩ := mem_spriteCells.1 h
  exact landing_on_grid h

/-- What is left of drawing `cells` when `d` is drawn so far: each cell once, so each compared with the pixel before. -/
theorem foldl_plot {cells : List (Nat × Nat)} (nodup : cells.Nodup) (grid : ∀ c ∈ cells, c.1 < 32 ∧ c.2 < 64) (d : Canvas) :
    (∀ yy xx, pixelOn (cells.foldl Canvas.plot d).fb yy xx = (pixelOn d.fb yy xx ^^ decide ((yy, xx) ∈ cells))) ∧
    ((cells.foldl Canvas.plot d).collision = true ↔ d.collision = true ∨ ∃ c ∈ cells, pixelOn d.fb c.1 c.2 = true) := by
  induction cells generalizing d with
  | nil => simp
  | cons e es ih =>
    obtain ⟨he, hes⟩ := List.nodup_cons.1 nodup
    obtain ⟨hy, hx⟩ := grid e (by simp)
    obtain ⟨hp, hc⟩ := ih hes (fun c h => grid c (by simp [h])) (d.plot e)
    have plotted : ∀ yy xx, pixelOn (d.plot e).fb yy xx = (pixelOn d.fb yy xx ^^ decide ((yy, xx) = e)) := by
      intro yy xx
      rw [Canvas.plot, pixelOn_togglePixel _ hy hx, ← Bool.decide_and]
      simp [Prod.ext_iff]
    constructor
    · intro yy xx
      rw [List.foldl_cons, hp, plotted]
      by_cases h : (yy, xx) = e
      · subst h
        simp [he]
      · simp [h]
    · rw [List.foldl_cons, hc]
      have : ∀ c ∈ es, pixelOn (d.plot e).fb c.1 c.2 = pixelOn d.fb c.1 c.2 := by
        rintro c hce
        rw [plotted, decide_eq_false, Bool.xor_false]
        rintro rfl
        exact he hce
      rw [exists_congr fun c => and_congr_right fun hce => by rw [this c hce]]
      simp only [Canvas.plot, Bool.or_eq_true, List.mem_cons, exists_eq_or_imp, or_assoc]

/-- A framebuffer after a sprite: exactly the sprite's cells are toggled. -/
theorem pixelOn_composite {cells : List (Nat × Nat)} (nodup : cells.Nodup)
    (grid : ∀ c ∈ cells, c.1 < 32 ∧ c.2 < 64) (fb : Vector PixelRow 32) (yy xx : Nat) :
    pixelOn (composite fb cells).fb yy xx = (pixelOn fb yy xx ^^ decide ((yy, xx) ∈ cells)) :=
  (foldl_plot nodup grid ⟨fb, false⟩).1 yy xx

/-- The collision: a cell of the sprite was on before. -/
theorem composite_collision {cells : List (Nat × Nat)} (nodup : cells.Nodup)
    (grid : ∀ c ∈ cells, c.1 < 32 ∧ c.2 < 64) (fb : Vector PixelRow 32) :
    (composite fb cells).collision = true ↔ ∃ c ∈ cells, pixelOn fb c.1 c.2 = true := by
  simpa [composite] using (foldl_plot nodup grid ⟨fb, false⟩).2

/-- The same sprite twice restores the framebuffer. -/
theorem composite_twice {cells : List (Nat × Nat)} (nodup : cells.Nodup)
    (grid : ∀ c ∈ cells, c.1 < 32 ∧ c.2 < 64) (fb : Vector PixelRow 32) :
    (composite (composite fb cells).fb cells).fb = fb :=
  fb_ext fun yy _ xx _ => by simp [pixelOn_composite nodup grid]

end Sys2Proof.Machine
end

