-- ==== Sys2Proof/Laws/Decode.lean ====
section
/-! SUPPORT. The small lemmas of decoding: the range of a field, and the bytes of a word. -/

namespace Sys2Proof

theorem field_eq (w : Word) (hi lo : Nat) : field w hi lo = w.toNat / 2 ^ lo % 2 ^ (hi - lo + 1) := rfl

theorem toNat_wordOfBytes (hi lo : Byte) : (wordOfBytes hi lo).toNat = 256 * hi.toNat + lo.toNat := by
  have := lo.isLt
  rw [wordOfBytes, BitVec.toNat_append, ← Nat.shiftLeft_add_eq_or_of_lt this, Nat.shiftLeft_eq]
  omega

theorem toNat_highByte (w : Word) : (highByte w).toNat = w.toNat / 256 := by
  have := w.isLt
  simp only [highByte, field_eq, BitVec.toNat_ofNat]
  omega

theorem toNat_lowByte (w : Word) : (lowByte w).toNat = w.toNat % 256 := by
  simp only [lowByte, field_eq, BitVec.toNat_ofNat]
  omega

/-- A word's two bytes, high byte first, are read back as the word (R53). -/
theorem wordOfBytes_bytes (w : Word) : wordOfBytes (highByte w) (lowByte w) = w := by
  apply BitVec.eq_of_toNat_eq
  rw [toNat_wordOfBytes, toNat_highByte, toNat_lowByte]
  omega

theorem toNat_encodeNNN {f : Nat} (hf : f < 16) (nnn : Addr) : (encodeNNN f nnn).toNat = f * 4096 + nnn.toNat := by
  have := nnn.isLt
  simp only [encodeNNN, BitVec.toNat_ofNat]
  omega

theorem toNat_encodeXKK {f : Nat} (hf : f < 16) (x : Reg) (kk : Byte) :
    (encodeXKK f x kk).toNat = f * 4096 + x.val * 256 + kk.toNat := by
  have := kk.isLt
  have := x.isLt
  simp only [encodeXKK, BitVec.toNat_ofNat]
  omega

theorem toNat_encodeXYN {f : Nat} (hf : f < 16) (x y : Reg) (n : Fin 16) :
    (encodeXYN f x y n).toNat = f * 4096 + x.val * 256 + y.val * 16 + n.val := by
  have := x.isLt
  have := y.isLt
  have := n.isLt
  simp only [encodeXYN, BitVec.toNat_ofNat]
  omega

/-! ### The operand fields as numbers (R72) -/

theorem val_fieldX (w : Word) : (fieldX w).val = w.toNat / 256 % 16 := by
  simp [fieldX, field_eq]

theorem val_fieldY (w : Word) : (fieldY w).val = w.toNat / 16 % 16 := by
  simp [fieldY, field_eq]

theorem val_fieldN (w : Word) : (fieldN w).val = w.toNat % 16 := by
  simp [fieldN, field_eq]

theorem toNat_fieldKK (w : Word) : (fieldKK w).toNat = w.toNat % 256 := by
  simp [fieldKK, field_eq]

theorem toNat_fieldNNN (w : Word) : (fieldNNN w).toNat = w.toNat % 4096 := by
  simp [fieldNNN, field_eq]

/-! ### The fields of an encoded word, by format (R71) -/

theorem fields_encodeNNN {f : Nat} (hf : f < 16) (nnn : Addr) :
    field (encodeNNN f nnn) 15 12 = f ∧ fieldNNN (encodeNNN f nnn) = nnn := by
  have hw := toNat_encodeNNN hf nnn
  have := nnn.isLt
  refine ⟨?_, BitVec.eq_of_toNat_eq ?_⟩
  · rw [field_eq]
    omega
  · rw [toNat_fieldNNN]
    omega

theorem fields_encodeXKK {f : Nat} (hf : f < 16) (x : Reg) (kk : Byte) :
    field (encodeXKK f x kk) 15 12 = f ∧ fieldX (encodeXKK f x kk) = x ∧ fieldKK (encodeXKK f x kk) = kk ∧
      field (encodeXKK f x kk) 7 0 = kk.toNat := by
  have hw := toNat_encodeXKK hf x kk
  have := x.isLt
  have := kk.isLt
  refine ⟨?_, Fin.ext ?_, BitVec.eq_of_toNat_eq ?_, ?_⟩
  · rw [field_eq]
    omega
  · rw [val_fieldX]
    omega
  · rw [toNat_fieldKK]
    omega
  · rw [field_eq]
    omega

theorem fields_encodeXYN {f : Nat} (hf : f < 16) (x y : Reg) (n : Fin 16) :
    field (encodeXYN f x y n) 15 12 = f ∧ fieldX (encodeXYN f x y n) = x ∧ fieldY (encodeXYN f x y n) = y ∧
      fieldN (encodeXYN f x y n) = n ∧ field (encodeXYN f x y n) 3 0 = n.val := by
  have hw := toNat_encodeXYN hf x y n
  have := x.isLt
  have := y.isLt
  have := n.isLt
  refine ⟨?_, Fin.ext ?_, Fin.ext ?_, Fin.ext ?_, ?_⟩
  · rw [field_eq]
    omega
  · rw [val_fieldX]
    omega
  · rw [val_fieldY]
    omega
  · rw [val_fieldN]
    omega
  · rw [field_eq]
    omega

end Sys2Proof
end

