-- ==== Sys2Proof/Laws/Events.lean ====
section
/-! SUPPORT. What a step can do, said once, and that a word placed for the fetch is what the next step runs. -/

namespace Sys2Proof.Machine

/-- What a STEP can do (R100, R174, R176): nothing in the faulted state, the fetch fault, the decode fault, or the
decoded instruction. -/
theorem stepEvent_cases (s : State) :
    (s.fault.isSome ∧ s.stepEvent = .next s) ∨
    (s.fault = none ∧ 0xFFF ≤ s.pc.toNat ∧
      s.stepEvent = .next (s.begin.takeFault ⟨.outOfBoundsAccess, max s.pc.toNat 0x1000⟩ 0)) ∨
    (∃ w, s.fault = none ∧ s.fetchWord = .ok w ∧
      ((∃ e, decode w = .error e ∧ s.stepEvent = .next (s.begin.takeFault ⟨.unknownOpcode, w.toNat⟩ w)) ∨
       (∃ i, decode w = .ok i ∧ s.stepEvent = exec i s.begin))) := by
  unfold State.stepEvent
  split
  · rename_i h
    exact .inl ⟨by simp [h], rfl⟩
  · rename_i h
    split
    · rename_i hf
      obtain ⟨hp, rfl⟩ := State.fetchWord_error.1 hf
      exact .inr (.inl ⟨h, hp, rfl⟩)
    · rename_i w hf
      refine .inr (.inr ⟨w, h, hf, ?_⟩)
      split
      · rename_i e he
        exact .inl ⟨e, he, rfl⟩
      · rename_i i hi
        exact .inr ⟨i, hi, rfl⟩

/-- A STEP whose fetch and decode succeed runs the instruction (R100). -/
theorem stepEvent_exec {s : State} {w : Word} {i : Instr} (hf : s.fault = none) (hw : s.fetchWord = .ok w)
    (hi : decode w = .ok i) : s.stepEvent = exec i s.begin := by
  simp [State.stepEvent, hf, hw, hi]

/-- What a LOAD can do (R184, R178). -/
theorem loadEvent_cases (s : State) (bs : List Byte) :
    (s.loadOpen = false ∧ s.loadEvent bs = .refused .loadOutsideContract) ∨
    (s.loadOpen = true ∧ romMax < bs.length ∧
      s.loadEvent bs = .next { s with loadRefusal := some bs.length, loadOpen := false }) ∨
    (s.loadOpen = true ∧ bs.length ≤ romMax ∧
      s.loadEvent bs = .next { s.writeBytes 0x200 bs with loadOpen := false }) := by
  unfold State.loadEvent
  cases s.loadOpen
  · exact .inl ⟨rfl, rfl⟩
  · rcases Nat.lt_or_ge romMax bs.length with h | h
    · exact .inr (.inl ⟨rfl, h, if_pos h⟩)
    · exact .inr (.inr ⟨rfl, h, if_neg (Nat.not_lt.2 h)⟩)

/-- A placed word is in bounds of the fetch. -/
theorem placeAddr_le (s : State) : (placeAddr s).toNat ≤ 0xFFE := by
  unfold placeAddr
  split
  · assumption
  · decide

/-- A placed word is what the next fetch reads. -/
theorem fetchWord_placeWord (s : State) (w : Word) : (placeWord s w).fetchWord = .ok w := by
  have hread : ∀ a, (placeWord s w).readByte a =
      (s.writeBytes (placeAddr s).toNat [highByte w, lowByte w]).readByte a := fun _ => rfl
  refine State.fetchWord_ok.2 ⟨placeAddr_le s, ?_⟩
  rw [hread, hread, State.readByte_writeBytes, State.readByte_writeBytes]
  simp [show (placeWord s w).pc = placeAddr s from rfl, wordOfBytes_bytes]

/-- A word placed by `withFetchWord` is what the very next step runs, and that step is `exec` of it (log 12). -/
theorem step_withFetchWord (s : State) {w : Word} {i : Instr} (hi : decode w = .ok i) :
    step (s.withFetchWord 16 w.toNat) = exec i (s.withFetchWord 16 w.toNat) := by
  have hw : BitVec.ofNat 16 (w.toNat % 2 ^ 16) = w := by
    apply BitVec.eq_of_toNat_eq
    rw [BitVec.toNat_ofNat, Nat.mod_mod, Nat.mod_eq_of_lt w.isLt]
  unfold State.withFetchWord
  rw [hw]
  exact stepEvent_exec rfl (fetchWord_placeWord s w) hi

end Sys2Proof.Machine
end

