-- ==== Sys2Proof/Laws/PerInstr.lean ====
section
/-! SUPPORT. The per-instruction family TableRow: the word of an instruction selects the row of the opcode table that
bears its mnemonic (R83). -/

namespace Sys2Proof.Laws.TableRow

/-- The word of a well-formed instruction selects its own row of the opcode table (R75, R83). -/
def Statement (i : Instr) : Prop :=
  i.wellFormed = true → ∃ row ∈ opcodeTable, row.mnemonic = i.mnemonic ∧ row.selects (encode i) = true

theorem sys (nnn : Addr) : Statement (.sys nnn) := by
  intro h
  have h1 : nnn ≠ 0x0E0#12 ∧ nnn ≠ 0x0EE#12 := by simpa [Instr.wellFormed] using h
  have h2 : (encodeNNN 0 nnn).toNat = nnn.toNat := by simpa using toNat_encodeNNN (f := 0) (by omega) nnn
  have h3 : encodeNNN 0 nnn ≠ 0x00E0#16 := fun e => h1.1 (BitVec.eq_of_toNat_eq (by rw [← h2, e]; rfl))
  have h4 : encodeNNN 0 nnn ≠ 0x00EE#16 := fun e => h1.2 (BitVec.eq_of_toNat_eq (by rw [← h2, e]; rfl))
  have := nnn.isLt
  refine ⟨⟨"SYS", [⟨15, 12, 0x0⟩], [0x00E0#16, 0x00EE#16]⟩, by decide, rfl, ?_⟩
  have h5 : nnn.toNat / 4096 = 0 := by omega
  simp [OpcodeRow.selects, encode, field_eq, h2, h3, h4, h5]

theorem cls : Statement .cls := fun _ => ⟨⟨"CLS", [⟨15, 0, 0x00e0⟩], []⟩, by decide, rfl, by decide⟩

theorem ret : Statement .ret := fun _ => ⟨⟨"RET", [⟨15, 0, 0x00ee⟩], []⟩, by decide, rfl, by decide⟩

theorem jp (nnn : Addr) : Statement (.jp nnn) := by
  refine fun _ => ⟨familyRow "JP" 0x1, by decide, rfl, ?_⟩
  have := nnn.isLt
  simp [familyRow, OpcodeRow.selects, encode, field_eq, toNat_encodeNNN]
  omega

theorem call (nnn : Addr) : Statement (.call nnn) := by
  refine fun _ => ⟨familyRow "CALL" 0x2, by decide, rfl, ?_⟩
  have := nnn.isLt
  simp [familyRow, OpcodeRow.selects, encode, field_eq, toNat_encodeNNN]
  omega

theorem seImm (x : Reg) (kk : Byte) : Statement (.seImm x kk) := by
  refine fun _ => ⟨familyRow "SE_IMM" 0x3, by decide, rfl, ?_⟩
  have := x.isLt
  have := kk.isLt
  simp [familyRow, OpcodeRow.selects, encode, field_eq, toNat_encodeXKK]
  omega

theorem sneImm (x : Reg) (kk : Byte) : Statement (.sneImm x kk) := by
  refine fun _ => ⟨familyRow "SNE_IMM" 0x4, by decide, rfl, ?_⟩
  have := x.isLt
  have := kk.isLt
  simp [familyRow, OpcodeRow.selects, encode, field_eq, toNat_encodeXKK]
  omega

theorem seReg (x y : Reg) : Statement (.seReg x y) := by
  refine fun _ => ⟨nibbleRow "SE_REG" 0x5 0x0, by decide, rfl, ?_⟩
  have := x.isLt
  have := y.isLt
  simp [nibbleRow, OpcodeRow.selects, encode, field_eq, toNat_encodeXYN]
  constructor <;> omega

theorem ldImm (x : Reg) (kk : Byte) : Statement (.ldImm x kk) := by
  refine fun _ => ⟨familyRow "LD_IMM" 0x6, by decide, rfl, ?_⟩
  have := x.isLt
  have := kk.isLt
  simp [familyRow, OpcodeRow.selects, encode, field_eq, toNat_encodeXKK]
  omega

theorem addImm (x : Reg) (kk : Byte) : Statement (.addImm x kk) := by
  refine fun _ => ⟨familyRow "ADD_IMM" 0x7, by decide, rfl, ?_⟩
  have := x.isLt
  have := kk.isLt
  simp [familyRow, OpcodeRow.selects, encode, field_eq, toNat_encodeXKK]
  omega

theorem ldReg (x y : Reg) : Statement (.ldReg x y) := by
  refine fun _ => ⟨nibbleRow "LD_REG" 0x8 0x0, by decide, rfl, ?_⟩
  have := x.isLt
  have := y.isLt
  simp [nibbleRow, OpcodeRow.selects, encode, field_eq, toNat_encodeXYN]
  constructor <;> omega

theorem or (x y : Reg) : Statement (.or x y) := by
  refine fun _ => ⟨nibbleRow "OR" 0x8 0x1, by decide, rfl, ?_⟩
  have := x.isLt
  have := y.isLt
  simp [nibbleRow, OpcodeRow.selects, encode, field_eq, toNat_encodeXYN]
  constructor <;> omega

theorem and (x y : Reg) : Statement (.and x y) := by
  refine fun _ => ⟨nibbleRow "AND" 0x8 0x2, by decide, rfl, ?_⟩
  have := x.isLt
  have := y.isLt
  simp [nibbleRow, OpcodeRow.selects, encode, field_eq, toNat_encodeXYN]
  constructor <;> omega

theorem xor (x y : Reg) : Statement (.xor x y) := by
  refine fun _ => ⟨nibbleRow "XOR" 0x8 0x3, by decide, rfl, ?_⟩
  have := x.isLt
  have := y.isLt
  simp [nibbleRow, OpcodeRow.selects, encode, field_eq, toNat_encodeXYN]
  constructor <;> omega

theorem addReg (x y : Reg) : Statement (.addReg x y) := by
  refine fun _ => ⟨nibbleRow "ADD_REG" 0x8 0x4, by decide, rfl, ?_⟩
  have := x.isLt
  have := y.isLt
  simp [nibbleRow, OpcodeRow.selects, encode, field_eq, toNat_encodeXYN]
  constructor <;> omega

theorem sub (x y : Reg) : Statement (.sub x y) := by
  refine fun _ => ⟨nibbleRow "SUB" 0x8 0x5, by decide, rfl, ?_⟩
  have := x.isLt
  have := y.isLt
  simp [nibbleRow, OpcodeRow.selects, encode, field_eq, toNat_encodeXYN]
  constructor <;> omega

theorem shr (x y : Reg) : Statement (.shr x y) := by
  refine fun _ => ⟨nibbleRow "SHR" 0x8 0x6, by decide, rfl, ?_⟩
  have := x.isLt
  have := y.isLt
  simp [nibbleRow, OpcodeRow.selects, encode, field_eq, toNat_encodeXYN]
  constructor <;> omega

theorem subn (x y : Reg) : Statement (.subn x y) := by
  refine fun _ => ⟨nibbleRow "SUBN" 0x8 0x7, by decide, rfl, ?_⟩
  have := x.isLt
  have := y.isLt
  simp [nibbleRow, OpcodeRow.selects, encode, field_eq, toNat_encodeXYN]
  constructor <;> omega

theorem shl (x y : Reg) : Statement (.shl x y) := by
  refine fun _ => ⟨nibbleRow "SHL" 0x8 0xe, by decide, rfl, ?_⟩
  have := x.isLt
  have := y.isLt
  simp [nibbleRow, OpcodeRow.selects, encode, field_eq, toNat_encodeXYN]
  constructor <;> omega

theorem sneReg (x y : Reg) : Statement (.sneReg x y) := by
  refine fun _ => ⟨nibbleRow "SNE_REG" 0x9 0x0, by decide, rfl, ?_⟩
  have := x.isLt
  have := y.isLt
  simp [nibbleRow, OpcodeRow.selects, encode, field_eq, toNat_encodeXYN]
  constructor <;> omega

theorem ldI (nnn : Addr) : Statement (.ldI nnn) := by
  refine fun _ => ⟨familyRow "LD_I" 0xa, by decide, rfl, ?_⟩
  have := nnn.isLt
  simp [familyRow, OpcodeRow.selects, encode, field_eq, toNat_encodeNNN]
  omega

theorem jpV0 (nnn : Addr) : Statement (.jpV0 nnn) := by
  refine fun _ => ⟨familyRow "JP_V0" 0xb, by decide, rfl, ?_⟩
  have := nnn.isLt
  simp [familyRow, OpcodeRow.selects, encode, field_eq, toNat_encodeNNN]
  omega

theorem rnd (x : Reg) (kk : Byte) : Statement (.rnd x kk) := by
  refine fun _ => ⟨familyRow "RND" 0xc, by decide, rfl, ?_⟩
  have := x.isLt
  have := kk.isLt
  simp [familyRow, OpcodeRow.selects, encode, field_eq, toNat_encodeXKK]
  omega

theorem drw (x y : Reg) (n : Fin 16) : Statement (.drw x y n) := by
  refine fun _ => ⟨familyRow "DRW" 0xd, by decide, rfl, ?_⟩
  have := x.isLt
  have := y.isLt
  have := n.isLt
  simp [familyRow, OpcodeRow.selects, encode, field_eq, toNat_encodeXYN]
  omega

theorem skp (x : Reg) : Statement (.skp x) := by
  refine fun _ => ⟨byteRow "SKP" 0xe 0x9e, by decide, rfl, ?_⟩
  have := x.isLt
  simp [byteRow, OpcodeRow.selects, encode, field_eq, toNat_encodeXKK]
  constructor <;> omega

theorem sknp (x : Reg) : Statement (.sknp x) := by
  refine fun _ => ⟨byteRow "SKNP" 0xe 0xa1, by decide, rfl, ?_⟩
  have := x.isLt
  simp [byteRow, OpcodeRow.selects, encode, field_eq, toNat_encodeXKK]
  constructor <;> omega

theorem ldVxDt (x : Reg) : Statement (.ldVxDt x) := by
  refine fun _ => ⟨byteRow "LD_VX_DT" 0xf 0x07, by decide, rfl, ?_⟩
  have := x.isLt
  simp [byteRow, OpcodeRow.selects, encode, field_eq, toNat_encodeXKK]
  constructor <;> omega

theorem ldVxK (x : Reg) : Statement (.ldVxK x) := by
  refine fun _ => ⟨byteRow "LD_VX_K" 0xf 0x0a, by decide, rfl, ?_⟩
  have := x.isLt
  simp [byteRow, OpcodeRow.selects, encode, field_eq, toNat_encodeXKK]
  constructor <;> omega

theorem ldDtVx (x : Reg) : Statement (.ldDtVx x) := by
  refine fun _ => ⟨byteRow "LD_DT_VX" 0xf 0x15, by decide, rfl, ?_⟩
  have := x.isLt
  simp [byteRow, OpcodeRow.selects, encode, field_eq, toNat_encodeXKK]
  constructor <;> omega

theorem ldStVx (x : Reg) : Statement (.ldStVx x) := by
  refine fun _ => ⟨byteRow "LD_ST_VX" 0xf 0x18, by decide, rfl, ?_⟩
  have := x.isLt
  simp [byteRow, OpcodeRow.selects, encode, field_eq, toNat_encodeXKK]
  constructor <;> omega

theorem addI (x : Reg) : Statement (.addI x) := by
  refine fun _ => ⟨byteRow "ADD_I" 0xf 0x1e, by decide, rfl, ?_⟩
  have := x.isLt
  simp [byteRow, OpcodeRow.selects, encode, field_eq, toNat_encodeXKK]
  constructor <;> omega

theorem ldF (x : Reg) : Statement (.ldF x) := by
  refine fun _ => ⟨byteRow "LD_F" 0xf 0x29, by decide, rfl, ?_⟩
  have := x.isLt
  simp [byteRow, OpcodeRow.selects, encode, field_eq, toNat_encodeXKK]
  constructor <;> omega

theorem ldB (x : Reg) : Statement (.ldB x) := by
  refine fun _ => ⟨byteRow "LD_B" 0xf 0x33, by decide, rfl, ?_⟩
  have := x.isLt
  simp [byteRow, OpcodeRow.selects, encode, field_eq, toNat_encodeXKK]
  constructor <;> omega

theorem stRegs (x : Reg) : Statement (.stRegs x) := by
  refine fun _ => ⟨byteRow "ST_REGS" 0xf 0x55, by decide, rfl, ?_⟩
  have := x.isLt
  simp [byteRow, OpcodeRow.selects, encode, field_eq, toNat_encodeXKK]
  constructor <;> omega

theorem ldRegs (x : Reg) : Statement (.ldRegs x) := by
  refine fun _ => ⟨byteRow "LD_REGS" 0xf 0x65, by decide, rfl, ?_⟩
  have := x.isLt
  simp [byteRow, OpcodeRow.selects, encode, field_eq, toNat_encodeXKK]
  constructor <;> omega

end Sys2Proof.Laws.TableRow
end

