-- ==== Sys2Proof/Tests/Slice0.lean ====
section
/-! SUPPORT. Tests of the model against the worked examples and derived vectors of spec/95_test_vectors.md (the section
is named before each group), the well-formedness check, one written-out word per constructor for the decoder, and a
witness for every statement with hypotheses. -/

namespace Sys2Proof.Tests

open Sys2Proof.Machine Sys2Proof.Safety

/-- A test of the state after a step. -/
def after (o : Host.Outcome State Fault Refusal) (test : State → Bool) : Bool :=
  match o with
  | .next t => test t
  | .fault _ => false
  | .refused _ => false

/-- The reset state with one word placed at 0x200. -/
def at200 (w : Nat) : State := State.reset.withFetchWord 16 w

/-- One step from the reset state with a word at 0x200, changed by `pre`. -/
def run1 (w : Nat) (pre : State → State) (test : State → Bool) : Bool := after (step (pre (at200 w))) test

/-- The same under EDGE_POLICY = wrap. -/
def wrapping (s : State) : State := { s with params := { s.params with edgePolicy := .wrap } }

/-- The latch holds this record. -/
def latched (t : State) (c : Cause) (pc0 word : Word) (info : Nat) : Bool := t.fault == some ⟨c, pc0, word, info⟩

/-- Only the latch differs from the state before the step, but for the events. -/
def onlyLatch (s t : State) : Bool := { t with fault := s.fault } == s

/-- The reset state with one event queued. -/
def queued (e : Event) : State := { State.reset with events := [e] }

/-! ### Well-formedness -/

/-- `0x00E0` is CLS, so SYS 0x0E0 is no instruction. -/
theorem test_wellFormed_sys_cls : Instr.wellFormed (.sys 0x0E0) = false := by decide
/-- `0x00EE` is RET, so SYS 0x0EE is no instruction. -/
theorem test_wellFormed_sys_ret : Instr.wellFormed (.sys 0x0EE) = false := by decide
theorem test_wellFormed_sys_neighbour : Instr.wellFormed (.sys 0x0E1) = true := by decide
theorem test_wellFormed_drw : Instr.wellFormed (.drw 15 15 0) = true := by decide

/-! ### Decoding: one word per constructor, written out from the patterns of R75 (the words of file 95 where it has
one) -/

theorem test_decode_sys : decodeTableWord 16 0x0123 = some (.sys 0x123) := by decide
theorem test_decode_cls : decodeTableWord 16 0x00E0 = some .cls := by decide
theorem test_decode_ret : decodeTableWord 16 0x00EE = some .ret := by decide
theorem test_decode_jp : decodeTableWord 16 0x1ABC = some (.jp 0xABC) := by decide
theorem test_decode_call : decodeTableWord 16 0x2300 = some (.call 0x300) := by decide
theorem test_decode_seImm : decodeTableWord 16 0x332A = some (.seImm 3 0x2A) := by decide
theorem test_decode_sneImm : decodeTableWord 16 0x432A = some (.sneImm 3 0x2A) := by decide
theorem test_decode_seReg : decodeTableWord 16 0x5120 = some (.seReg 1 2) := by decide
theorem test_decode_ldImm : decodeTableWord 16 0x6FAB = some (.ldImm 15 0xAB) := by decide
theorem test_decode_addImm : decodeTableWord 16 0x7002 = some (.addImm 0 2) := by decide
theorem test_decode_ldReg : decodeTableWord 16 0x8010 = some (.ldReg 0 1) := by decide
theorem test_decode_or : decodeTableWord 16 0x8011 = some (.or 0 1) := by decide
theorem test_decode_and : decodeTableWord 16 0x8012 = some (.and 0 1) := by decide
theorem test_decode_xor : decodeTableWord 16 0x8013 = some (.xor 0 1) := by decide
theorem test_decode_addReg : decodeTableWord 16 0x80F4 = some (.addReg 0 15) := by decide
theorem test_decode_sub : decodeTableWord 16 0x8F15 = some (.sub 15 1) := by decide
theorem test_decode_shr : decodeTableWord 16 0x8016 = some (.shr 0 1) := by decide
theorem test_decode_subn : decodeTableWord 16 0x8017 = some (.subn 0 1) := by decide
theorem test_decode_shl : decodeTableWord 16 0x8F0E = some (.shl 15 0) := by decide
theorem test_decode_sneReg : decodeTableWord 16 0x9120 = some (.sneReg 1 2) := by decide
theorem test_decode_ldI : decodeTableWord 16 0xA2F0 = some (.ldI 0x2F0) := by decide
theorem test_decode_jpV0 : decodeTableWord 16 0xB300 = some (.jpV0 0x300) := by decide
theorem test_decode_rnd : decodeTableWord 16 0xC03C = some (.rnd 0 0x3C) := by decide
theorem test_decode_drw : decodeTableWord 16 0xD01F = some (.drw 0 1 15) := by decide
theorem test_decode_skp : decodeTableWord 16 0xE59E = some (.skp 5) := by decide
theorem test_decode_sknp : decodeTableWord 16 0xE5A1 = some (.sknp 5) := by decide
theorem test_decode_ldVxDt : decodeTableWord 16 0xF407 = some (.ldVxDt 4) := by decide
theorem test_decode_ldVxK : decodeTableWord 16 0xF30A = some (.ldVxK 3) := by decide
theorem test_decode_ldDtVx : decodeTableWord 16 0xF415 = some (.ldDtVx 4) := by decide
theorem test_decode_ldStVx : decodeTableWord 16 0xF418 = some (.ldStVx 4) := by decide
theorem test_decode_addI : decodeTableWord 16 0xF11E = some (.addI 1) := by decide
theorem test_decode_ldF : decodeTableWord 16 0xF029 = some (.ldF 0) := by decide
theorem test_decode_ldB : decodeTableWord 16 0xF033 = some (.ldB 0) := by decide
theorem test_decode_stRegs : decodeTableWord 16 0xF255 = some (.stRegs 2) := by decide
theorem test_decode_ldRegs : decodeTableWord 16 0xF265 = some (.ldRegs 2) := by decide

/-- The rejected words of section 2.1: family 8 holes, strict families 5 and 9, holes of families E and F. -/
theorem test_decode_rejects :
    [0x8008, 0x800F, 0x5121, 0x9125, 0xE09F, 0xF000, 0xF0FF].all (fun w => (decodeTableWord 16 w).isNone) = true := by
  decide
/-- Family 0's neighbour of CLS is SYS. -/
theorem test_decode_family0_neighbour : decodeTableWord 16 0x00E1 = some (.sys 0x0E1) := by decide


/-! ### Fetch (section 2.1) -/

/-- An odd pc is legal. -/
theorem test_fetch_odd_pc : after (step { (at200 0).writeBytes 0x201 [0x6A, 0x55] with pc := 0x201 })
    (fun t => t.reg 10 == 0x55 && t.pc == 0x203) = true := by decide
/-- The last legal fetch address. -/
theorem test_fetch_last : after (step { (at200 0).writeBytes 0xFFE [0x60, 0x07] with pc := 0xFFE })
    (fun t => t.reg 0 == 0x07 && t.pc == 0x1000) = true := by decide
/-- A fetch straddling the end of memory: info 0x1000. -/
theorem test_fetch_straddles : after (step { at200 0 with pc := 0xFFF })
    (fun t => latched t .outOfBoundsAccess 0x0FFF 0 0x1000 && t.pc == 0xFFF) = true := by decide
/-- A fetch beyond memory: info pc (the step after JP_V0 `BFFF` with V0 = FF). -/
theorem test_fetch_beyond : after (step { at200 0 with pc := 0x10FE })
    (fun t => latched t .outOfBoundsAccess 0x10FE 0 0x10FE) = true := by decide
/-- From reset with nothing loaded the first step fetches the zero word. -/
theorem test_fetch_zero_memory : after (step State.reset)
    (fun t => latched t .unknownOpcode 0x200 0 0 && t.pc == 0x200) = true := by decide
theorem test_reject_family8 : run1 0x8008 id
    (fun t => latched t .unknownOpcode 0x200 0x8008 0x8008 && onlyLatch (at200 0x8008) t) = true := by decide
theorem test_reject_familyF : run1 0xF0FF id
    (fun t => latched t .unknownOpcode 0x200 0xF0FF 0xF0FF && onlyLatch (at200 0xF0FF) t) = true := by decide
/-- The faulted machine ignores STEP. -/
theorem test_faulted_step : after (step { at200 0x6005 with fault := some ⟨.stackUnderflow, 0x200, 0x00EE, 0⟩ })
    (fun t => t.reg 0 == 0 && t.pc == 0x200 && latched t .stackUnderflow 0x200 0x00EE 0) = true := by decide

/-! ### Control flow (section 2.2) -/

theorem test_sys : run1 0x0123 id
    (fun t => latched t .unknownOpcode 0x200 0x0123 0x0123 && onlyLatch (at200 0x0123) t) = true := by decide
theorem test_ret : run1 0x00EE (fun s => { s with sp := 1, stack := s.stack.set 0 0x0202 })
    (fun t => t.sp == 0 && t.pc == 0x202) = true := by decide
theorem test_ret_underflow : run1 0x00EE id
    (fun t => latched t .stackUnderflow 0x200 0x00EE 0 && onlyLatch (at200 0x00EE) t) = true := by decide
theorem test_jp : run1 0x1ABC id (fun t => t.pc == 0xABC) = true := by decide
theorem test_jp_self : run1 0x1200 id (fun t => t == at200 0x1200) = true := by decide
theorem test_call_last_entry : run1 0x2300 (fun s => { s with sp := 15 })
    (fun t => t.stack[15] == 0x0202 && t.sp == 16 && t.pc == 0x300) = true := by decide
theorem test_call_overflow : run1 0x2300 (fun s => { s with sp := 16 })
    (fun t => latched t .stackOverflow 0x200 0x2300 0 && t.sp == 16 && t.pc == 0x200) = true := by decide
theorem test_seImm_equal : run1 0x332A (fun s => s.setReg 3 0x2A) (fun t => t.pc == 0x204) = true := by decide
theorem test_seImm_unequal : run1 0x332A (fun s => s.setReg 3 0x2B) (fun t => t.pc == 0x202) = true := by decide
theorem test_sneImm_equal : run1 0x432A (fun s => s.setReg 3 0x2A) (fun t => t.pc == 0x202) = true := by decide
theorem test_sneImm_unequal : run1 0x432A id (fun t => t.pc == 0x204) = true := by decide
theorem test_seReg_equal : run1 0x5120 (fun s => (s.setReg 1 7).setReg 2 7)
    (fun t => t.pc == 0x204) = true := by decide
theorem test_seReg_unequal : run1 0x5120 (fun s => (s.setReg 1 7).setReg 2 8)
    (fun t => t.pc == 0x202) = true := by decide
theorem test_sneReg_unequal : run1 0x9120 (fun s => (s.setReg 1 7).setReg 2 8)
    (fun t => t.pc == 0x204) = true := by decide
theorem test_sneReg_equal : run1 0x9120 (fun s => (s.setReg 1 7).setReg 2 7)
    (fun t => t.pc == 0x202) = true := by decide
theorem test_jpV0 : run1 0xB300 (fun s => s.setReg 0 4) (fun t => t.pc == 0x304) = true := by decide
theorem test_jpV0_unmasked : run1 0xBFFF (fun s => s.setReg 0 0xFF) (fun t => t.pc == 0x10FE) = true := by decide

/-! ### Load and ALU (section 2.3) -/

theorem test_ldImm_vf : run1 0x6FAB id (fun t => t.reg 15 == 0xAB && t.pc == 0x202) = true := by decide
theorem test_addImm_wraps : run1 0x7002 (fun s => (s.setReg 0 0xFF).setReg 15 0x55)
    (fun t => t.reg 0 == 1 && t.reg 15 == 0x55) = true := by decide
theorem test_addImm_vf : run1 0x7F01 (fun s => s.setReg 15 0xFF) (fun t => t.reg 15 == 0) = true := by decide
theorem test_ldReg : run1 0x8010 (fun s => s.setReg 1 0x3C)
    (fun t => t.reg 0 == 0x3C && t.pc == 0x202) = true := by decide
theorem test_or : run1 0x8011 (fun s => ((s.setReg 0 0xF0).setReg 1 0x0F).setReg 15 0x55)
    (fun t => t.reg 0 == 0xFF && t.reg 15 == 0x55) = true := by decide
theorem test_and : run1 0x8012 (fun s => ((s.setReg 0 0xF0).setReg 1 0x3C).setReg 15 0x55)
    (fun t => t.reg 0 == 0x30 && t.reg 15 == 0x55) = true := by decide
theorem test_xor : run1 0x8013 (fun s => ((s.setReg 0 0xF0).setReg 1 0x3C).setReg 15 0x55)
    (fun t => t.reg 0 == 0xCC && t.reg 15 == 0x55) = true := by decide
theorem test_addReg_no_carry_at_255 : run1 0x8014 (fun s => ((s.setReg 0 0x80).setReg 1 0x7F).setReg 15 0x55)
    (fun t => t.reg 0 == 0xFF && t.reg 15 == 0) = true := by decide
theorem test_addReg_flag_wins : run1 0x8F14 (fun s => (s.setReg 15 0xF0).setReg 1 0x20)
    (fun t => t.reg 15 == 1 && t.pc == 0x202) = true := by decide
theorem test_sub_borrow : run1 0x8015 (fun s => ((s.setReg 0 3).setReg 1 5).setReg 15 1)
    (fun t => t.reg 0 == 0xFE && t.reg 15 == 0) = true := by decide
theorem test_sub_equal_is_strict : run1 0x8015 (fun s => ((s.setReg 0 7).setReg 1 7).setReg 15 1)
    (fun t => t.reg 0 == 0 && t.reg 15 == 0) = true := by decide
theorem test_shr_ignores_y : run1 0x8016 (fun s => (s.setReg 0 5).setReg 1 0xFF)
    (fun t => t.reg 0 == 2 && t.reg 1 == 0xFF && t.reg 15 == 1) = true := by decide
theorem test_shr_flag_wins : run1 0x8F06 (fun s => s.setReg 15 2) (fun t => t.reg 15 == 0) = true := by decide
theorem test_subn : run1 0x8017 (fun s => (s.setReg 0 3).setReg 1 5)
    (fun t => t.reg 0 == 2 && t.reg 15 == 1) = true := by decide
theorem test_subn_equal_is_strict : run1 0x8017 (fun s => ((s.setReg 0 7).setReg 1 7).setReg 15 1)
    (fun t => t.reg 0 == 0 && t.reg 15 == 0) = true := by decide
theorem test_shl : run1 0x800E (fun s => s.setReg 0 0x81) (fun t => t.reg 0 == 2 && t.reg 15 == 1) = true := by decide
theorem test_shl_no_flag : run1 0x800E (fun s => (s.setReg 0 0x40).setReg 15 1)
    (fun t => t.reg 0 == 0x80 && t.reg 15 == 0) = true := by decide
/-- The random byte is free: the test looks at what the rule fixes. -/
theorem test_rnd_uses_a_draw : run1 0xC03C id
    (fun t => t.draws == 1 && t.pc == 0x202 && t.reg 1 == 0) = true := by decide
/-- Mask 00 gives 00, whatever the byte. -/
theorem test_rnd_mask_zero (s : State) : ∃ t, exec (.rnd 0 0) s = .next t ∧ t.reg 0 = 0 :=
  ⟨_, rfl, by simp [State.loadReg, State.advance, State.goto, State.setReg, State.reg]⟩

/-! ### Index and memory (section 2.4) -/

theorem test_ldI : run1 0xA2F0 id (fun t => t.index == 0x2F0 && t.pc == 0x202) = true := by decide
theorem test_addI_wraps : run1 0xF01E (fun s => { s.setReg 0 2 with index := 0xFFFF })
    (fun t => t.index == 1) = true := by decide
theorem test_addI_no_flag : run1 0xF01E (fun s => { (s.setReg 0 1).setReg 15 0x55 with index := 0x0FFF })
    (fun t => t.index == 0x1000 && t.reg 15 == 0x55) = true := by decide
theorem test_ldF_past_the_font : run1 0xF029 (fun s => s.setReg 0 0xFF)
    (fun t => t.index == 0x4FB) = true := by decide
theorem test_ldF_font_base : run1 0xF029 (fun s => { s.setReg 0 9 with params := { s.params with fontBase := 0x50 } })
    (fun t => t.index == 0x7D && t.readBytes 0x7D 5 == [0xF0, 0x90, 0xF0, 0x10, 0xF0]) = true := by decide
theorem test_ldB : run1 0xF033 (fun s => { s.setReg 0 0xEA with index := 0xFFD })
    (fun t => t.readBytes 0xFFD 3 == [2, 3, 4] && t.pc == 0x202) = true := by decide
theorem test_ldB_out_of_bounds : run1 0xF033 (fun s => { s.setReg 0 0xFF with index := 0xFFE })
    (fun t => latched t .outOfBoundsAccess 0x200 0xF033 0x1000 && t.readBytes 0xFFE 2 == [0, 0] && t.pc == 0x200) = true := by decide
theorem test_stRegs : run1 0xF255 (fun s => { (((s.setReg 0 0x11).setReg 1 0x22).setReg 2 0x33).setReg 3 0x44 with index := 0x400 })
    (fun t => t.readBytes 0x400 4 == [0x11, 0x22, 0x33, 0] && t.index == 0x400) = true := by decide
theorem test_stRegs_out_of_bounds : run1 0xF155 (fun s => { (s.setReg 0 0xA0).setReg 1 0xA1 with index := 0xFFF })
    (fun t => latched t .outOfBoundsAccess 0x200 0xF155 0x1000 && t.readByte 0xFFF == 0) = true := by decide
theorem test_ldRegs : run1 0xF265 (fun s => { (s.setReg 3 0x99).writeBytes 0x300 [2, 3, 4, 5] with index := 0x300 })
    (fun t => t.reg 0 == 2 && t.reg 1 == 3 && t.reg 2 == 4 && t.reg 3 == 0x99) = true := by decide
theorem test_ldRegs_out_of_bounds : run1 0xFF65 (fun s => { s.setReg 0 0x77 with index := 0xFF1 })
    (fun t => latched t .outOfBoundsAccess 0x200 0xFF65 0x1000 && t.reg 0 == 0x77) = true := by decide

/-! ### Display (section 2.5) -/

theorem test_cls : run1 0x00E0 (fun s => { s.setReg 15 0x55 with fb := (s.fb.set 0 1).set 31 0x8000000000000000 })
    (fun t => t.fb == blankFb && t.dirty && t.reg 15 == 0x55) = true := by decide
/-- The sprite byte `FF` at column 60: four pixels under `clip`. -/
theorem test_drw_clip : run1 0xD011 (fun s => { (s.setReg 0 60).writeByte 0x300 0xFF with index := 0x300 })
    (fun t => t.fb[0] == 0xF000000000000000 && t.reg 15 == 0 && t.dirty) = true := by decide
/-- Row 31, two rows of `80`, under `wrap`, with (0,5) already on: it goes off and VF = 1. -/
theorem test_drw_wrap_collides : run1 0xD012 (fun s => { wrapping (((s.setReg 0 5).setReg 1 31).writeBytes 0x300 [0x80, 0x80]) with index := 0x300, fb := s.fb.set 0 0x20 })
    (fun t => t.fb[0] == 0 && t.fb[31] == 0x20 && t.reg 15 == 1) = true := by decide

/-! ### Keys and timers (sections 2.6 and 2.7) -/

theorem test_skp_pressed : run1 0xE59E (fun s => { s.setReg 5 15 with keys := 0x8000 })
    (fun t => t.pc == 0x204) = true := by decide
theorem test_skp_no_such_key : run1 0xE59E (fun s => { s.setReg 5 0x10 with keys := 1 })
    (fun t => latched t .keyIndexOutOfRange 0x200 0xE59E 0x10 && t.pc == 0x200) = true := by decide
theorem test_sknp_released : run1 0xE5A1 (fun s => s.setReg 5 10) (fun t => t.pc == 0x204) = true := by decide
theorem test_sknp_no_such_key : run1 0xE5A1 (fun s => s.setReg 5 0x10)
    (fun t => latched t .keyIndexOutOfRange 0x200 0xE5A1 0x10) = true := by decide
theorem test_ldVxK_waits : run1 0xF30A (fun s => s.setReg 3 0x77)
    (fun t => t == (at200 0xF30A).setReg 3 0x77) = true := by decide
/-- Keys 3, 9 and 12: the results under `any` are exactly these three; `lowest` gives 3 and `highest` 12. -/
theorem test_ldVxK_selects :
    (List.range 3).map (fun d => selectKey .any d (pressedKeys 0x1208)) = [some 3, some 9, some 12] ∧
    selectKey .lowest 1 (pressedKeys 0x1208) = some 3 ∧ selectKey .highest 1 (pressedKeys 0x1208) = some 12 := by decide
theorem test_ldVxDt : run1 0xF407 (fun s => { s with dt := 0x2C })
    (fun t => t.reg 4 == 0x2C && t.dt == 0x2C && t.pc == 0x202) = true := by decide
theorem test_ldDtVx : run1 0xF415 (fun s => s.setReg 4 0x3C) (fun t => t.dt == 0x3C && t.st == 0) = true := by decide
theorem test_ldStVx : run1 0xF418 (fun s => s.setReg 4 5) (fun t => t.st == 5 && t.dt == 0) = true := by decide

/-! ### Events (sections 2.7 and 2.8) -/

/-- TICK works while faulted, and each timer saturates by itself. -/
theorem test_tick_faulted : after (step { queued .tick with dt := 5, fault := some ⟨.stackUnderflow, 0x200, 0x00EE, 0⟩ })
    (fun t => t.dt == 4 && t.st == 0 && latched t .stackUnderflow 0x200 0x00EE 0) = true := by decide
theorem test_keys : after (step (queued (.keys 0x0020))) (fun t => t.keys == 0x20 && t.pc == 0x200) = true := by decide
theorem test_frameAck : after (step { queued .frameAck with dirty := true }) (fun t => !t.dirty) = true := by decide
/-- RESET from a fault. -/
theorem test_reset_from_fault : after (step { queued .reset with
    pc := 0x300, sp := 3, dt := 9, fault := some ⟨.stackUnderflow, 0x300, 0x00EE, 0⟩ })
    (fun t => t == State.reset) = true := by decide
/-- The first two bytes of program P1 (section 3) go to 0x200, and the first step runs them. -/
theorem test_load : after (step (queued (.load [0x60, 0x05])))
    (fun t => after (step t) (fun u => u.reg 0 == 5 && u.pc == 0x202)) = true := by decide
/-- A second LOAD is outside the contract. -/
theorem test_load_twice : after (step { State.reset with events := [.load [0x60], .load [0x61]] })
    (fun t => match step t with | .refused .loadOutsideContract => true | _ => false) = true := by decide
/-- ROM bytes 3585: refused, memory unchanged, no fault latched. -/
theorem test_load_too_large (bytes : List Byte) (h : bytes.length = 3585) :
    ∃ t, step (queued (.load bytes)) = .next t ∧ t.loadRefusal = some 3585 ∧ t.mem = [] ∧ t.fault = none :=
  ⟨_, by simp [step, runEvent, nextEvent, queued, State.dequeue, State.loadEvent, romMax, State.reset, State.resetWith, h];
         exact rfl, rfl, rfl, rfl⟩

/-! ### Assembly (section 3) -/

/-- Program P4, its sprite by DB and its park by a label. -/
theorem test_assemble_P4 :
    assemble [.line ⟨.ld, [.reg 0, .num 0]⟩, .line ⟨.ld, [.reg 1, .num 0]⟩, .line ⟨.ld, [.index, .label "sprite"]⟩,
      .line ⟨.drw, [.reg 0, .reg 1, .num 2]⟩, .line ⟨.drw, [.reg 0, .reg 1, .num 2]⟩, .label "park",
      .line ⟨.jp, [.label "park"]⟩, .label "sprite", .db [0xC0, 0x81]] =
    some [0x60, 0x00, 0x61, 0x00, 0xA2, 0x0C, 0xD0, 0x12, 0xD0, 0x12, 0x12, 0x0A, 0xC0, 0x81] := by decide
/-- Lines of programs P2 and P3 that share a mnemonic with others. -/
theorem test_assembleLine :
    (assembleLine ⟨.ld, [.bcd, .reg 0]⟩).map encode = some 0xF033 ∧ (assembleLine ⟨.ld, [.reg 2, .atIndex]⟩).map encode = some 0xF265 ∧
    (assembleLine ⟨.add, [.reg 0, .num 0xFF]⟩).map encode = some 0x70FF ∧ assembleLine ⟨.sys, [.num 0x0E0]⟩ = none := by
  decide
/-- The text of a line, and a line of program P2 read back with its label and comment. -/
theorem test_asm_text :
    (disassemble (.ldRegs 15)).text = "LD VF, [I]" ∧
    parseLine "park: JP 0x20C ; park".toList = some [.label "park", .line ⟨.jp, [.num 0x20C]⟩] := by decide
/-- A register, and the names VX and Va, which are no registers (log 14). -/
theorem test_asm_operands :
    ["VF", "VX", "Va"].map (fun o => parseOperand o.toList) = [some (.reg 15), some (.label "VX"), some (.label "Va")] := by
  decide

/-! ### Witnesses: for every statement with hypotheses, a state and operands that meet them, clause by clause and at the
boundary values -/

theorem witness_DecodeEncodeRoundTrip :
    Instr.wellFormed (.sys 0xFFF) = true ∧ Instr.wellFormed (.drw 15 15 15) = true := by decide
theorem witness_DecodedWordEncodesBack : decode 0x8016#16 = .ok (.shr 0 1) := by decide
theorem witness_StepRunsDecodedInstruction :
    (at200 0x6005).fault = none ∧ nextEvent (at200 0x6005) = .step ∧ (at200 0x6005).pc.toNat ≤ 0xFFE ∧
    decode (wordOfBytes ((at200 0x6005).readByte (at200 0x6005).pc.toNat)
      ((at200 0x6005).readByte ((at200 0x6005).pc.toNat + 1))) = .ok (.ldImm 0 5) := by decide
/-- The last address a fetch may start at. -/
theorem witness_StepRunsDecodedInstruction_last :
    let s : State := { (at200 0).writeBytes 0xFFE [0x60, 0x07] with pc := 0xFFE }
    s.fault = none ∧ nextEvent s = .step ∧ s.pc.toNat ≤ 0xFFE ∧
    decode (wordOfBytes (s.readByte s.pc.toNat) (s.readByte (s.pc.toNat + 1))) = .ok (.ldImm 0 7) := by decide
/-- Both cases of the recorded address: pc = 0xFFF and pc = 0x1000. -/
theorem witness_FetchOutOfBoundsFaults :
    [0xFFF#16, 0x1000#16].all (fun pc => let s : State := { at200 0 with pc := pc }
      decide (s.fault = none ∧ nextEvent s = .step ∧ 0xFFE < s.pc.toNat)) = true := by decide
theorem witness_UnknownWordsFault : UnknownWord 0x00E1#16 ∧ UnknownWord 0x8008#16 ∧ UnknownWord 0xF066#16 ∧
    (at200 0x00E1).fault = none ∧ nextEvent (at200 0x00E1) = .step ∧ (at200 0x00E1).pc.toNat ≤ 0xFFE ∧
    wordOfBytes ((at200 0x00E1).readByte (at200 0x00E1).pc.toNat)
      ((at200 0x00E1).readByte ((at200 0x00E1).pc.toNat + 1)) = 0x00E1#16 := by
  refine ⟨Or.inl (by decide), Or.inr (Or.inr (Or.inl (by decide))), ?_, by decide, by decide, by decide, by decide⟩
  exact Or.inr (Or.inr (Or.inr (Or.inr (Or.inr (by decide)))))
/-- A word that is known and yet leaves a fault latched: RET with an empty stack. -/
theorem witness_UnknownWordsFault_known : ¬ UnknownWord 0x00EE#16 ∧
    (∃ t f, step (at200 0x00EE) = .next t ∧ t.fault = some f) :=
  ⟨by simp only [UnknownWord]; decide, _, _, rfl, rfl⟩
/-- A latched state whose next event is STEP, and one whose next event is TICK. -/
theorem witness_FaultLatchIsSticky :
    let f : FaultRecord := ⟨.stackUnderflow, 0x200, 0x00EE, 0⟩
    let s : State := { at200 0x00EE with fault := some f }
    let t : State := { s with events := [.tick] }
    s.fault = some f ∧ nextEvent s = .step ∧ t.fault = some f ∧ nextEvent t ≠ .reset ∧ ∃ u, step t = .next u := by
  refine ⟨rfl, rfl, rfl, by decide, _, rfl⟩
theorem witness_RetPopsIntoPc :
    0 < ({ at200 0x00EE with sp := 16 } : State).sp.val ∧ 0 < ({ at200 0x00EE with sp := 1 } : State).sp.val ∧
    (at200 0x00EE).sp = 0 := by decide
theorem witness_CallPushesReturnAddress :
    ({ at200 0x2300 with sp := 15 } : State).sp.val < 16 ∧ ({ at200 0x2300 with sp := 16 } : State).sp.val = 16 := by
  decide
theorem witness_SkipsOnRegisters :
    (field 0x5121#16 15 12 = 0x5 ∧ field 0x5121#16 3 0 ≠ 0) ∧ (field 0x912F#16 15 12 = 0x9 ∧ field 0x912F#16 3 0 ≠ 0) := by
  decide
/-- Register numbers other than F exist, and F itself is covered by the flag clause. -/
theorem witness_flag_destination : (14 : Reg) ≠ 15 ∧ ¬ ((15 : Reg) ≠ 15) := by decide
/-- n = 0 at the highest I; the last sprite byte at 0xFFF. -/
theorem witness_DrwXorsSprite :
    let s : State := { at200 0xD010 with index := 0xFFFF }
    let t : State := { at200 0xD01F with index := 0xFF1 }
    ((0 : Fin 16).val = 0 ∨ s.index.toNat + (0 : Fin 16).val ≤ 0x1000) ∧
    ((15 : Fin 16).val = 0 ∨ t.index.toNat + (15 : Fin 16).val ≤ 0x1000) := by decide
/-- The glyph of digit 0 at (0,0) hits the pixel (0,0), which is on in one state and off in the other. -/
theorem witness_DrwXorsSprite_collision :
    let s : State := { at200 0xD011 with fb := (at200 0xD011).fb.set 0 1 }
    SpriteHits s 0 1 1 0 0 ∧ SpriteCollides s 0 1 1 ∧ ¬ SpriteCollides (at200 0xD011) 0 1 1 := by
  have hit : ∀ s : State, s = { at200 0xD011 with fb := (at200 0xD011).fb.set 0 1 } → SpriteHits s 0 1 1 0 0 := by
    rintro s rfl
    exact ⟨0, by decide, 0, by decide, by decide, rfl, rfl⟩
  refine ⟨hit _ rfl, ⟨0, by decide, 0, by decide, hit _ rfl, by decide⟩, ?_⟩
  rintro ⟨yy, hy, xx, hx, -, on⟩
  have off : ∀ yy < 32, pixelOn (at200 0xD011).fb yy xx = false := by
    intro yy hy
    simp only [pixelOn, hy, dif_pos, at200, State.withFetchWord, placeWord, State.writeBytes, State.writeByte,
      State.reset, State.resetWith, Vector.getElem_replicate]
    exact BitVec.getLsbD_zero
  simp [off yy hy] at on
theorem witness_DrwTwiceRestoresFramebuffer :
    (0 : Reg) ≠ 15 ∧ (14 : Reg) ≠ 15 ∧ (at200 0xD0E5).index.toNat + (5 : Fin 16).val ≤ 0x1000 ∧
    ∃ t, exec (.drw 0 14 5) (at200 0xD0E5) = .next t ∧ pixelOn (at200 0xD0E5).fb 0 0 = false ∧ pixelOn t.fb 0 0 = true := by
  refine ⟨by decide, by decide, by decide, _, rfl, by decide, by decide⟩
theorem witness_FlagsByTable :
    (∃ t, exec (.ldReg 0 15) (at200 0x80F0) = .next t) ∧ mayWriteReg (.ldReg 0 15) 15 = false := ⟨⟨_, rfl⟩, by decide⟩
theorem witness_LdBStoresDigits : ({ at200 0xF033 with index := 0xFFD } : State).index.toNat + 2 ≤ 0xFFF := by decide
/-- The longest block at its last place, the shortest at the last byte (LD [I], Vx and LD Vx, [I] alike). -/
theorem witness_StRegsStoresBlock :
    ({ at200 0xFF55 with index := 0xFF0 } : State).index.toNat + (15 : Reg).val ≤ 0xFFF ∧
    ({ at200 0xF055 with index := 0xFFF } : State).index.toNat + (0 : Reg).val ≤ 0xFFF := by decide
theorem witness_LdRegsLoadsBlock :
    ({ at200 0xFF65 with index := 0xFF0 } : State).index.toNat + (15 : Reg).val ≤ 0xFFF ∧ (0 : Reg) ≤ 15 ∧ (14 : Reg) < 15 := by
  decide
theorem witness_StoreThenLoadRestoresRegisters :
    let s : State := { (at200 0xF155).setReg 0 0xDE with index := 0x300 }
    s.index.toNat + (1 : Reg).val ≤ 0xFFF ∧ ∃ t u, exec (.stRegs 1) s = .next t ∧ u ≠ t ∧ u.index = t.index ∧
      ∀ a, s.index.toNat ≤ a → a ≤ s.index.toNat + (1 : Reg).val → u.readByte a = t.readByte a := by
  refine ⟨by decide, _, { (at200 0xF155).writeBytes 0x300 [0xDE] with index := 0x300 }, rfl, by decide, by decide, ?_⟩
  intro a h0 h1
  have : a = 0x300 ∨ a = 0x301 := by
    simp only [show ({ (at200 0xF155).setReg 0 0xDE with index := 0x300 } : State).index.toNat = 0x300 from rfl,
      show (1 : Reg).val = 1 from rfl] at h0 h1
    omega
  rcases this with rfl | rfl <;> decide
/-- One more byte than fits, for each of the four instructions, and I itself beyond memory. -/
theorem witness_DataOutOfBoundsFaults :
    0xFFF < ({ at200 0xD012 with index := 0xFFF } : State).index.toNat + 1 ∧
    0xFFF < ({ at200 0xF033 with index := 0xFFE } : State).index.toNat + 2 ∧
    0xFFF < ({ at200 0xFF55 with index := 0xFF1 } : State).index.toNat + 15 ∧
    0xFFF < ({ at200 0xF065 with index := 0x1000 } : State).index.toNat + 0 := by decide
theorem witness_KeySkipsTestTheKey : (((at200 0xE59E).setReg 5 15).reg 5).toNat ≤ 15 := by decide
theorem witness_KeyIndexAboveFifteenFaults : 15 < (((at200 0xE59E).setReg 5 16).reg 5).toNat := by decide
/-- No key; keys 0 and 15 under `lowest` and under `highest`. -/
theorem witness_AwaitKeyStoresPressedKey :
    let two : State := { at200 0xF30A with keys := 0x8001 }
    let lowest : State := { two with params := { two.params with keySelect := .lowest } }
    let highest : State := { two with params := { two.params with keySelect := .highest } }
    (at200 0xF30A).keys = 0 ∧ (lowest.keys ≠ 0 ∧ lowest.params.keySelect = .lowest ∧ lowest.keys.getLsbD 15 = true) ∧
    (highest.keys ≠ 0 ∧ highest.params.keySelect = .highest ∧ highest.keys.getLsbD 0 = true) := by decide
theorem witness_TickCountsDownBothTimers : nextEvent (queued .tick) = .tick := by decide
theorem witness_TicksSaturateAtZero : (queued .tick).events = List.replicate 1 .tick ++ [] := by decide
theorem witness_FrameAckClearsDirty : nextEvent (queued .frameAck) = .frameAck := by decide
/-- A ROM of exactly 3584 bytes, and one of 3585. -/
theorem witness_LoadPlacesRom :
    (∃ bs : List Byte, nextEvent (queued (.load bs)) = .load bs ∧ (queued (.load bs)).loadOpen = true ∧ bs.length ≤ 3584 ∧
      bs.length = 3584) ∧
    (∃ bs : List Byte, nextEvent (queued (.load bs)) = .load bs ∧ (queued (.load bs)).loadOpen = true ∧ 3584 < bs.length) :=
  ⟨⟨List.replicate 3584 0xAA, rfl, rfl, by simp only [List.length_replicate]; omega, List.length_replicate⟩,
    ⟨List.replicate 3585 0xAA, rfl, rfl, by simp only [List.length_replicate]; omega⟩⟩
theorem witness_LoadOutsideContractRefused :
    let s : State := { at200 0x6005 with events := [.load [0x60]] }
    nextEvent s = .load [0x60] ∧ s.loadOpen = false := by decide
theorem witness_ResetLeavesListedValues : nextEvent { at200 0x6005 with events := [.reset] } = .reset := by decide
/-- CALL at SP = 16 raises; at SP = 15 it does not. -/
theorem witness_FaultsAndPcByTable :
    raisesIn (.call 0x300) { at200 0x2300 with sp := 16 } = some ⟨.stackOverflow, 0⟩ ∧
    raisesIn (.call 0x300) { at200 0x2300 with sp := 15 } = none := by decide
/-- A state that meets the invariant, with a live return address at its bound, and its next state. -/
theorem witness_StepKeepsInvariant :
    let s : State := { at200 0x00EE with sp := 1, stack := (at200 0x00EE).stack.set 0 0x1000 }
    Inv s ∧ ∃ t, step s = .next t ∧ t.pc = 0x1000 := by
  refine ⟨⟨by decide, by decide, ?_, fun f h => nomatch (show (none : Option FaultRecord) = some f from h)⟩, _, rfl, by decide⟩
  intro k hk
  obtain rfl : k = 0 := Fin.ext (by have : k.val < 1 := hk; simp; omega)
  decide
theorem witness_RegisterFrame :
    (∃ t, exec (.addReg 0 1) (at200 0x8014) = .next t) ∧ mayWriteReg (.addReg 0 1) 14 = false := ⟨⟨_, rfl⟩, by decide⟩
/-- The bytes just below and just above the three that LD_B stores to. -/
theorem witness_MemoryFrame :
    let s : State := { at200 0xF033 with index := 0x300 }
    (∃ t, exec (.ldB 0) s = .next t) ∧ 0x2FF < (storeSpan (.ldB 0) s).1 ∧
      (storeSpan (.ldB 0) s).1 + (storeSpan (.ldB 0) s).2 ≤ 0x303 := ⟨⟨_, rfl⟩, by decide, by decide⟩
/-- Each of the named registers does change under an instruction that the frame names for it. -/
theorem witness_SpecialStateFrame :
    (∃ t, exec (.addI 0) ((at200 0).setReg 0 1) = .next t ∧ t.index ≠ ((at200 0).setReg 0 1).index) ∧
    (∃ t, exec (.call 0x300) (at200 0x2300) = .next t ∧ t.sp ≠ (at200 0x2300).sp ∧ t.stack ≠ (at200 0x2300).stack) ∧
    (∃ t, exec (.ldDtVx 0) ((at200 0).setReg 0 1) = .next t ∧ t.dt ≠ ((at200 0).setReg 0 1).dt) ∧
    (∃ t, exec (.ldStVx 0) ((at200 0).setReg 0 1) = .next t ∧ t.st ≠ ((at200 0).setReg 0 1).st) ∧
    (∃ t, exec .cls (at200 0x00E0) = .next t ∧ t.dirty ≠ (at200 0x00E0).dirty) ∧
    (∃ t, exec (.rnd 0 0) (at200 0xC000) = .next t ∧ t.draws ≠ (at200 0xC000).draws) := by
  refine ⟨⟨_, rfl, by decide⟩, ⟨_, rfl, by decide, by decide⟩, ⟨_, rfl, by decide⟩, ⟨_, rfl, by decide⟩,
    ⟨_, rfl, by decide⟩, ⟨_, rfl, by decide⟩⟩
theorem witness_ParametersAreFixed : ∃ t, step (queued .reset) = .next t := ⟨_, rfl⟩
/-- Two different states that agree on the one live entry. -/
theorem witness_DeadStackEntriesUnobservable :
    let s : State := { at200 0x00EE with sp := 1 }
    let t : State := { s with stack := s.stack.set 1 0x1234 }
    SameLive s t ∧ s ≠ t := by
  refine ⟨⟨by decide, ?_⟩, by decide⟩
  intro k hk
  obtain rfl : k = 0 := Fin.ext (by have : k.val < 1 := hk; simp; omega)
  decide
theorem witness_NoInstructionReadsSoundOrDirty :
    SameToProgram (at200 0x6005) { at200 0x6005 with st := 9, dirty := true } ∧
    at200 0x6005 ≠ { at200 0x6005 with st := 9, dirty := true } := ⟨by simp only [SameToProgram], by decide⟩
theorem witness_OnlyLoadOutsideContractStops :
    (∃ t, step (at200 0x6005) = .next t) ∧
    step { at200 0x6005 with events := [.load [0x60]] } = .refused .loadOutsideContract := ⟨⟨_, rfl⟩, rfl⟩
theorem witness_EndedProgramStaysParked :
    Ended (at200 0x1200) ∧ (at200 0x1200).loadOpen = false ∧ nextEvent (at200 0x1200) = .step :=
  ⟨⟨rfl, by decide, 0x200, by decide, by decide⟩, rfl, by decide⟩

end Sys2Proof.Tests
end

section
/-! PROOFS. Control flow (file 40 of the spec): RET, JP, CALL and the skips on an immediate. First the rules the four
statements share (the words of the instructions, the end of a checked instruction, pc and its frame), then the
statements. -/

namespace Sys2Proof.Machine

open Sys2Proof.Safety

/-! ### The words of the instructions (R71, R75) -/

/-- The 'Encoding' line of an instruction from its encoder: the encoder's word bears the number, and decodes back. -/
theorem encodedAs_of_encode {i : Instr} {w : Nat} (hw : (encode i).toNat = w) (h : decode (encode i) = .ok i) :
    EncodedAs i w := by
  rw [EncodedAs, ← hw, BitVec.ofNat_toNat, BitVec.setWidth_eq, h]

theorem encodedAs_ret : EncodedAs .ret 0x00EE := encodedAs_of_encode rfl (by decide)

theorem encodedAs_jp (nnn : Addr) : EncodedAs (.jp nnn) (0x1000 + nnn.toNat) := by
  obtain ⟨family, operand⟩ := fields_encodeNNN (f := 0x1) (by omega) nnn
  refine encodedAs_of_encode (toNat_encodeNNN (by omega) nnn) ?_
  simp only [encode, decode, family, operand]

theorem encodedAs_call (nnn : Addr) : EncodedAs (.call nnn) (0x2000 + nnn.toNat) := by
  obtain ⟨family, operand⟩ := fields_encodeNNN (f := 0x2) (by omega) nnn
  refine encodedAs_of_encode (toNat_encodeNNN (by omega) nnn) ?_
  simp only [encode, decode, family, operand]

theorem encodedAs_seImm (x : Reg) (kk : Byte) : EncodedAs (.seImm x kk) (0x3000 + 256 * x.val + kk.toNat) := by
  obtain ⟨family, register, immediate, -⟩ := fields_encodeXKK (f := 0x3) (by omega) x kk
  refine encodedAs_of_encode ?_ ?_
  · rw [encode, toNat_encodeXKK (by omega), Nat.mul_comm x.val]
  · simp only [encode, decode, family, register, immediate]

theorem encodedAs_sneImm (x : Reg) (kk : Byte) : EncodedAs (.sneImm x kk) (0x4000 + 256 * x.val + kk.toNat) := by
  obtain ⟨family, register, immediate, -⟩ := fields_encodeXKK (f := 0x4) (by omega) x kk
  refine encodedAs_of_encode ?_ ?_
  · rw [encode, toNat_encodeXKK (by omega), Nat.mul_comm x.val]
  · simp only [encode, decode, family, register, immediate]

/-! ### The end of a checked instruction (R11, R173) -/

theorem settle_map_of_ok {α : Type} {e : Except Raised α} {a : α} (h : e = .ok a) (i : Instr) (s : State)
    (f : α → State) : settle i s (e.map f) = .next (f a) := by
  rw [h]
  rfl

/-- A check that fails latches its cause and changes no other state. -/
theorem settle_map_of_error {α : Type} {e : Except Raised α} {r : Raised} (h : e = .error r) (i : Instr) (s : State)
    (g : α → State) : ∃ t f, settle i s (e.map g) = .next t ∧ t.fault = some f ∧ f.cause = r.cause ∧
      { t with fault := s.fault } = s := by
  rw [h]
  exact ⟨s.takeFault r (encode i), _, rfl, rfl, rfl, rfl⟩

/-! ### pc and the call stack (R28, R30) -/

theorem toNat_zextAddr (nnn : Addr) : (zextAddr nnn).toNat = nnn.toNat :=
  BitVec.toNat_setWidth_of_le (by decide)

namespace State

theorem push_of_lt {s : State} (h : s.sp.val < 16) (w : Word) : ∃ t, s.push w = .ok t := ⟨_, dif_pos h⟩

theorem pop_of_pos {s : State} (h : 0 < s.sp.val) : ∃ w t, s.pop = .ok (w, t) := ⟨_, _, dif_pos h⟩

/-- A jump writes pc alone. -/
theorem goto_frame (s : State) (w : Word) : { s.goto w with pc := s.pc } = s := rfl

/-- A skip writes pc alone. -/
theorem skipIf_frame (s : State) (c : Bool) : { s.skipIf c with pc := s.pc } = s := rfl

/-- R28, from pc0: the skip is by address, two words on or one. -/
theorem skipIf_pc_eq_ite (s : State) (c : Bool) : (s.skipIf c).pc = if c then s.pc + 4 else s.pc + 2 := by
  rw [skipIf_pc, nextPc, BitVec.add_assoc]
  rfl

end State

/-! ### The statements -/

/-- Settles O10, by the two cases of the pop. -/
theorem retPopsIntoPc : Obligations.RetPopsIntoPc := by
  unfold Obligations.RetPopsIntoPc
  refine ⟨encodedAs_ret, fun s h => ?_, fun s h => ?_⟩
  · obtain ⟨w, t, popped⟩ := State.pop_of_pos h
    obtain ⟨_, entry, sp_lower, frame⟩ := State.pop_ok popped
    exact ⟨t.goto w, settle_map_of_ok popped .ret s _, sp_lower, entry, congrArg (·.goto s.pc) frame⟩
  · have underflow : s.pop = .error ⟨.stackUnderflow, 0⟩ := State.pop_error.2 ⟨congrArg Fin.val h, rfl⟩
    exact settle_map_of_error underflow .ret s _

/-- Settles O11. -/
theorem jpSetsPc : Obligations.JpSetsPc := by
  unfold Obligations.JpSetsPc
  exact ⟨encodedAs_jp, fun s nnn => ⟨s.goto (zextAddr nnn), rfl, toNat_zextAddr nnn, s.goto_frame _⟩⟩

/-- Settles O12, by the two cases of the push. -/
theorem callPushesReturnAddress : Obligations.CallPushesReturnAddress := by
  unfold Obligations.CallPushesReturnAddress
  refine ⟨encodedAs_call, fun s nnn h => ?_, fun s nnn h => ?_⟩
  · obtain ⟨t, pushed⟩ := State.push_of_lt h s.nextPc
    obtain ⟨_, sp_higher, stack_eq, frame⟩ := State.push_ok pushed
    refine ⟨t.goto (zextAddr nnn), settle_map_of_ok pushed (.call nnn) s _, ?_, fun k hk => ?_, sp_higher,
      toNat_zextAddr nnn, congrArg (·.goto s.pc) frame⟩
    · simp only [State.goto_stack, stack_eq, Vector.getElem_set_self, State.nextPc]
    · simp only [State.goto_stack, stack_eq, Vector.getElem_set_ne _ _ hk.symm]
  · have overflow : s.push s.nextPc = .error ⟨.stackOverflow, 0⟩ := State.push_error.2 ⟨h, rfl⟩
    exact settle_map_of_error overflow (.call nnn) s _

/-- Settles O13: both skips are `skipIf`, SNE_IMM with the negated condition. -/
theorem skipsOnImmediate : Obligations.SkipsOnImmediate := by
  unfold Obligations.SkipsOnImmediate
  refine ⟨fun x kk => ⟨encodedAs_seImm x kk, encodedAs_sneImm x kk⟩, fun s x kk =>
    ⟨⟨s.skipIf (s.reg x == kk), rfl, ?_, s.skipIf_frame _⟩, ⟨s.skipIf (s.reg x != kk), rfl, ?_, s.skipIf_frame _⟩⟩⟩
  · simp only [State.skipIf_pc_eq_ite, beq_iff_eq]
  · simp only [State.skipIf_pc_eq_ite, bne_iff_ne, ne_eq, ite_not]

end Sys2Proof.Machine
end

section
/-! PROOFS. Load and logic (file 41 of the spec): LD Vx, kk, ADD Vx, kk, LD Vx, Vy, OR, AND and XOR. First the words of
the two formats, then what `loadReg` does, the one write that all six instructions end in, then the statements. -/

namespace Sys2Proof.Machine

open Sys2Proof.Safety

/-! ### The words of the instructions (R71, R75) -/

/-- The 'Encoding' line of an instruction of format XKK, `base` being its word with every operand 0. -/
theorem encodedAs_of_encodeXKK {i : Instr} {f base : Nat} {x : Reg} {kk : Byte} (hf : f < 16) (hbase : f * 4096 = base)
    (hi : encode i = encodeXKK f x kk) (h : decode (encodeXKK f x kk) = .ok i) :
    EncodedAs i (base + 256 * x.val + kk.toNat) := by
  refine encodedAs_of_encode ?_ (hi ▸ h)
  rw [hi, toNat_encodeXKK hf, hbase, Nat.mul_comm x.val]

/-- The 'Encoding' line of an instruction of format XYN, `base` being its word with both registers 0. -/
theorem encodedAs_of_encodeXYN {i : Instr} {f base : Nat} {x y : Reg} {n : Fin 16} (hf : f < 16)
    (hbase : f * 4096 + n.val = base) (hi : encode i = encodeXYN f x y n) (h : decode (encodeXYN f x y n) = .ok i) :
    EncodedAs i (base + 256 * x.val + 16 * y.val) := by
  refine encodedAs_of_encode ?_ (hi ▸ h)
  rw [hi, toNat_encodeXYN hf, ← hbase]
  ring

theorem encodedAs_ldImm (x : Reg) (kk : Byte) : EncodedAs (.ldImm x kk) (0x6000 + 256 * x.val + kk.toNat) := by
  obtain ⟨family, register, immediate, -⟩ := fields_encodeXKK (f := 0x6) (by omega) x kk
  refine encodedAs_of_encodeXKK (f := 0x6) (by omega) rfl rfl ?_
  simp only [decode, family, register, immediate]

theorem encodedAs_addImm (x : Reg) (kk : Byte) : EncodedAs (.addImm x kk) (0x7000 + 256 * x.val + kk.toNat) := by
  obtain ⟨family, register, immediate, -⟩ := fields_encodeXKK (f := 0x7) (by omega) x kk
  refine encodedAs_of_encodeXKK (f := 0x7) (by omega) rfl rfl ?_
  simp only [decode, family, register, immediate]

/-- Family 0x8 is dispatched on the low nibble, which format XYN writes as `n` (R74, R78). -/
theorem encodedAs_of_family8 {i : Instr} {base : Nat} {x y : Reg} (n : Fin 16) (hbase : 0x8000 + n.val = base)
    (hi : encode i = encodeXYN 0x8 x y n)
    (h : ∀ w, fieldX w = x → fieldY w = y → field w 3 0 = n.val → decodeFamily8 w = .ok i) :
    EncodedAs i (base + 256 * x.val + 16 * y.val) := by
  obtain ⟨family, regX, regY, -, nibble⟩ := fields_encodeXYN (f := 0x8) (by omega) x y n
  refine encodedAs_of_encodeXYN (by omega) hbase hi ?_
  simp only [decode, family]
  exact h _ regX regY nibble

theorem encodedAs_ldReg (x y : Reg) : EncodedAs (.ldReg x y) (0x8000 + 256 * x.val + 16 * y.val) :=
  encodedAs_of_family8 0x0 rfl rfl fun w regX regY nibble => by simp [decodeFamily8, regX, regY, nibble]

theorem encodedAs_or (x y : Reg) : EncodedAs (.or x y) (0x8001 + 256 * x.val + 16 * y.val) :=
  encodedAs_of_family8 0x1 rfl rfl fun w regX regY nibble => by simp [decodeFamily8, regX, regY, nibble]

theorem encodedAs_and (x y : Reg) : EncodedAs (.and x y) (0x8002 + 256 * x.val + 16 * y.val) :=
  encodedAs_of_family8 0x2 rfl rfl fun w regX regY nibble => by simp [decodeFamily8, regX, regY, nibble]

theorem encodedAs_xor (x y : Reg) : EncodedAs (.xor x y) (0x8003 + 256 * x.val + 16 * y.val) :=
  encodedAs_of_family8 0x3 rfl rfl fun w regX regY nibble => by simp [decodeFamily8, regX, regY, nibble]

/-! ### The result register and its frame (R120) -/

namespace State

variable (s : State) (x : Reg) (b : Byte)

/-- Reading a register after an ALU instruction without a flag: only the destination changes. -/
theorem reg_loadReg (r : Reg) : (s.loadReg x b).reg r = if r = x then b else s.reg r := by
  rw [loadReg, reg_advance, reg_setReg]

@[simp] theorem reg_loadReg_self : (s.loadReg x b).reg x = b := by rw [reg_loadReg, if_pos rfl]

/-- An ALU instruction without a flag writes its destination and pc alone (R120): VF is an ordinary register here. -/
theorem loadReg_frame : (∀ r, r ≠ x → (s.loadReg x b).reg r = s.reg r) ∧ (s.loadReg x b).pc = s.pc + 2 ∧
    { s.loadReg x b with v := s.v, pc := s.pc } = s :=
  ⟨fun r hr => by rw [reg_loadReg, if_neg hr], rfl, rfl⟩

end State

/-! ### The statements -/

/-- Settles O16. -/
theorem ldImmLoadsImmediate : Obligations.LdImmLoadsImmediate := by
  unfold Obligations.LdImmLoadsImmediate
  exact ⟨encodedAs_ldImm, fun s x kk => ⟨s.loadReg x kk, rfl, s.reg_loadReg_self x _, s.loadReg_frame x _⟩⟩

/-- Settles O17: the sum of two bytes is the one modulo 256. -/
theorem addImmWrapsWithoutFlag : Obligations.AddImmWrapsWithoutFlag := by
  unfold Obligations.AddImmWrapsWithoutFlag
  refine ⟨encodedAs_addImm, fun s x kk => ⟨s.loadReg x (s.reg x + kk), rfl, ?_, s.loadReg_frame x _⟩⟩
  rw [State.reg_loadReg_self, BitVec.toNat_add]

/-- Settles O18. -/
theorem ldRegCopiesRegister : Obligations.LdRegCopiesRegister := by
  unfold Obligations.LdRegCopiesRegister
  exact ⟨encodedAs_ldReg, fun s x y => ⟨s.loadReg x (s.reg y), rfl, s.reg_loadReg_self x _, s.loadReg_frame x _⟩⟩

/-- Settles O19: the three differ in the byte they load, and share the frame of `loadReg`. -/
theorem logicIsBitwiseWithoutFlag : Obligations.LogicIsBitwiseWithoutFlag := by
  unfold Obligations.LogicIsBitwiseWithoutFlag
  refine ⟨fun x y => ⟨encodedAs_or x y, encodedAs_and x y, encodedAs_xor x y⟩, fun s x y =>
    ⟨s.loadReg x (s.reg x ||| s.reg y), s.loadReg x (s.reg x &&& s.reg y), s.loadReg x (s.reg x ^^^ s.reg y),
      ⟨rfl, fun k _ => ?_⟩, ⟨rfl, fun k _ => ?_⟩, ⟨rfl, fun k _ => ?_⟩, ?_⟩⟩
  · rw [State.reg_loadReg_self, BitVec.getLsbD_or]
  · rw [State.reg_loadReg_self, BitVec.getLsbD_and]
  · rw [State.reg_loadReg_self, BitVec.getLsbD_xor]
  · simp only [List.forall_mem_cons, List.not_mem_nil, false_imp_iff, implies_true, and_true]
    exact ⟨s.loadReg_frame x _, s.loadReg_frame x _, s.loadReg_frame x _⟩

end Sys2Proof.Machine
end

section
/-! PROOFS. The index register (file 42 of the spec): LD I, nnn. First its word, then what a write of I followed by the
advance of pc does, then the statement. -/

namespace Sys2Proof.Machine

open Sys2Proof.Safety

/-! ### The word of the instruction (R71, R75) -/

theorem encodedAs_ldI (nnn : Addr) : EncodedAs (.ldI nnn) (0xA000 + nnn.toNat) := by
  obtain ⟨family, operand⟩ := fields_encodeNNN (f := 0xA) (by omega) nnn
  refine encodedAs_of_encode (toNat_encodeNNN (by omega) nnn) ?_
  simp only [encode, decode, family, operand]

/-! ### The index register and its frame (R141) -/

/-- An instruction that sets the index register and advances writes I and pc alone. -/
theorem State.advance_setIndex_frame (s : State) (a : Word) :
    (s.setIndex a).advance.index = a ∧ (s.setIndex a).advance.pc = s.pc + 2 ∧
      { (s.setIndex a).advance with index := s.index, pc := s.pc } = s :=
  ⟨rfl, rfl, rfl⟩

/-! ### The statement -/

/-- Settles O25: I is the zero extension of nnn, so it has nnn's value. -/
theorem ldILoadsIndex : Obligations.LdILoadsIndex := by
  unfold Obligations.LdILoadsIndex
  refine ⟨encodedAs_ldI, fun s nnn => ?_⟩
  obtain ⟨index_eq, frame⟩ := s.advance_setIndex_frame (zextAddr nnn)
  exact ⟨(s.setIndex (zextAddr nnn)).advance, rfl, index_eq ▸ toNat_zextAddr nnn, frame⟩

end Sys2Proof.Machine
end

section
/-! PROOFS. The timer registers (file 44 of the spec): LD Vx, DT, LD DT, Vx and LD ST, Vx. First their words, all of
family 0xF, then what a write of a timer followed by the advance of pc does, then the statements. LD Vx, DT is a
`loadReg`, whose rules are those of file 41. -/

namespace Sys2Proof.Machine

open Sys2Proof.Safety

/-! ### The words of the instructions (R71, R75) -/

/-- Family 0xF is dispatched on the low byte, which format XSS fixes to `kk` (R74, R78). -/
theorem encodedAs_of_familyF {i : Instr} {base : Nat} {x : Reg} (kk : Byte) (hbase : 0xF000 + kk.toNat = base)
    (hi : encode i = encodeXKK 0xF x kk)
    (h : ∀ w, fieldX w = x → field w 7 0 = kk.toNat → decodeFamilyF w = .ok i) :
    EncodedAs i (base + 256 * x.val) := by
  obtain ⟨family, register, -, low⟩ := fields_encodeXKK (f := 0xF) (by omega) x kk
  have decoded : decode (encodeXKK 0xF x kk) = .ok i := by
    simp only [decode, family]
    exact h _ register low
  rw [← hbase, Nat.add_right_comm]
  exact encodedAs_of_encodeXKK (by omega) rfl hi decoded

theorem encodedAs_ldVxDt (x : Reg) : EncodedAs (.ldVxDt x) (0xF007 + 256 * x.val) :=
  encodedAs_of_familyF 0x07#8 rfl rfl fun w register low => by simp [decodeFamilyF, register, low]

theorem encodedAs_ldDtVx (x : Reg) : EncodedAs (.ldDtVx x) (0xF015 + 256 * x.val) :=
  encodedAs_of_familyF 0x15#8 rfl rfl fun w register low => by simp [decodeFamilyF, register, low]

theorem encodedAs_ldStVx (x : Reg) : EncodedAs (.ldStVx x) (0xF018 + 256 * x.val) :=
  encodedAs_of_familyF 0x18#8 rfl rfl fun w register low => by simp [decodeFamilyF, register, low]

/-! ### The timers and their frames (R33, R164, R165) -/

namespace State

variable (s : State) (b : Byte)

/-- An instruction that sets the delay timer and advances writes DT and pc alone. -/
theorem advance_withDt_frame :
    ({ s with dt := b } : State).advance.dt = b ∧ ({ s with dt := b } : State).advance.pc = s.pc + 2 ∧
      { ({ s with dt := b } : State).advance with dt := s.dt, pc := s.pc } = s :=
  ⟨rfl, rfl, rfl⟩

/-- An instruction that sets the sound timer and advances writes ST and pc alone. -/
theorem advance_withSt_frame :
    ({ s with st := b } : State).advance.st = b ∧ ({ s with st := b } : State).advance.pc = s.pc + 2 ∧
      { ({ s with st := b } : State).advance with st := s.st, pc := s.pc } = s :=
  ⟨rfl, rfl, rfl⟩

end State

/-! ### The statements -/

/-- Settles O38: the frame of `loadReg` holds DT among the fields kept. -/
theorem ldVxDtReadsDelayTimer : Obligations.LdVxDtReadsDelayTimer := by
  unfold Obligations.LdVxDtReadsDelayTimer
  exact ⟨encodedAs_ldVxDt, fun s x => ⟨s.loadReg x s.dt, rfl, s.reg_loadReg_self x _, s.loadReg_frame x _⟩⟩

/-- Settles O39. -/
theorem ldDtVxSetsDelayTimer : Obligations.LdDtVxSetsDelayTimer := by
  unfold Obligations.LdDtVxSetsDelayTimer
  exact ⟨encodedAs_ldDtVx, fun s x => ⟨_, rfl, s.advance_withDt_frame (s.reg x)⟩⟩

/-- Settles O40. -/
theorem ldStVxSetsSoundTimer : Obligations.LdStVxSetsSoundTimer := by
  unfold Obligations.LdStVxSetsSoundTimer
  exact ⟨encodedAs_ldStVx, fun s x => ⟨_, rfl, s.advance_withSt_frame (s.reg x)⟩⟩

end Sys2Proof.Machine
end

section
/-! PROOFS. The environment's events (file 60 of the spec): KEYS. First what the event runs and what it writes, then the
statement. -/

namespace Sys2Proof.Machine

open Sys2Proof.Safety

/-! ### The event KEYS and its frame (R187) -/

/-- KEYS has no precondition: it answers a next state from every state, a faulted one included. -/
theorem runEvent_keys (s : State) (k : BitVec 16) : runEvent (.keys k) s = .next (s.setKeys k) := rfl

/-- A write of the keys is undone by putting the old keys back, so no other field is written. -/
theorem State.setKeys_frame (s : State) (k : BitVec 16) : { s.setKeys k with keys := s.keys } = s := rfl

/-! ### The statement -/

/-- Settles O45: the new keys are the whole of `k`, so they agree with it bit by bit. -/
theorem keysReplacesAllSixteen : Obligations.KeysReplacesAllSixteen := by
  unfold Obligations.KeysReplacesAllSixteen
  refine fun s k => ⟨s.setKeys k, runEvent_keys s k, fun j _ => ?_, s.setKeys_frame k⟩
  rw [State.setKeys_keys]

end Sys2Proof.Machine
end

section
/-! PROOFS. The decoder, the encoder and the opcode table (file 30 of the spec). First the fields of a word put together
again, then `decode` after `encode`, which word a decoded instruction comes from, which words are unknown, and which rows
of the table select a word, then the statements. -/

namespace Sys2Proof

open Sys2Proof.Machine Sys2Proof.Safety

/-! ### A word from its own fields (R71, R72) -/

theorem encodeNNN_fields {w : Word} {f : Nat} (hf : field w 15 12 = f) : encodeNNN f (fieldNNN w) = w := by
  subst hf
  have := w.isLt
  apply BitVec.eq_of_toNat_eq
  rw [encodeNNN, BitVec.toNat_ofNat, toNat_fieldNNN, field_eq]
  omega

theorem encodeXKK_fields {w : Word} {f : Nat} (hf : field w 15 12 = f) :
    encodeXKK f (fieldX w) (fieldKK w) = w := by
  subst hf
  have := w.isLt
  apply BitVec.eq_of_toNat_eq
  rw [encodeXKK, BitVec.toNat_ofNat, toNat_fieldKK, val_fieldX, field_eq]
  omega

theorem encodeXYN_fields {w : Word} {f : Nat} (hf : field w 15 12 = f) :
    encodeXYN f (fieldX w) (fieldY w) (fieldN w) = w := by
  subst hf
  have := w.isLt
  apply BitVec.eq_of_toNat_eq
  rw [encodeXYN, BitVec.toNat_ofNat, val_fieldX, val_fieldY, val_fieldN, field_eq]
  omega

/-- Format XSS: the low byte of the word is the fixed `kk`. -/
theorem encodeXKK_of_lowByte {w : Word} {f : Nat} {kk : Byte} (hf : field w 15 12 = f) (hk : field w 7 0 = kk.toNat) :
    encodeXKK f (fieldX w) kk = w := by
  have : fieldKK w = kk := by rw [fieldKK, hk, BitVec.ofNat_toNat, BitVec.setWidth_eq]
  rw [← this, encodeXKK_fields hf]

/-- Format XYS: the low nibble of the word is the fixed `n`. -/
theorem encodeXYN_of_lowNibble {w : Word} {f : Nat} {n : Fin 16} (hf : field w 15 12 = f) (hn : field w 3 0 = n.val) :
    encodeXYN f (fieldX w) (fieldY w) n = w := by
  have : fieldN w = n := Fin.ext (by rw [fieldN, hn, Fin.val_ofNat, Nat.mod_eq_of_lt n.isLt])
  rw [← this, encodeXYN_fields hf]

theorem family_lt (w : Word) : field w 15 12 < 16 := by
  have := w.isLt
  rw [field_eq]
  omega

theorem field_whole (w : Word) : field w 15 0 = w.toNat := by
  have := w.isLt
  rw [field_eq]
  omega

/-! ### Decoding an encoded instruction -/

/-- A family-0 word other than 00E0 and 00EE is SYS (R75). -/
theorem decode_encode_sys {nnn : Addr} (h : Instr.wellFormed (.sys nnn) = true) :
    decode (encode (.sys nnn)) = .ok (.sys nnn) := by
  obtain ⟨family, operand⟩ := fields_encodeNNN (f := 0) (by omega) nnn
  have number := toNat_encodeNNN (f := 0) (by omega) nnn
  have not_cls_ret : nnn ≠ 0x0E0#12 ∧ nnn ≠ 0x0EE#12 := by simpa [Instr.wellFormed] using h
  have not_cls : encodeNNN 0 nnn ≠ 0x00E0#16 := fun e =>
    not_cls_ret.1 (BitVec.eq_of_toNat_eq (by rw [e] at number; simpa using number.symm))
  have not_ret : encodeNNN 0 nnn ≠ 0x00EE#16 := fun e =>
    not_cls_ret.2 (BitVec.eq_of_toNat_eq (by rw [e] at number; simpa using number.symm))
  simp only [encode, decode, family, decodeFamily0, if_neg not_cls, if_neg not_ret, operand]

/-- Format by format: the fields of the encoded word are the operands, and the fixed ones select the instruction. -/
theorem decode_encode {i : Instr} (h : i.wellFormed = true) : decode (encode i) = .ok i := by
  cases i with
  | sys nnn => exact decode_encode_sys h
  | cls | ret => decide
  | jp nnn | call nnn | ldI nnn | jpV0 nnn => simp [encode, decode, fields_encodeNNN]
  | seImm x kk | sneImm x kk | ldImm x kk | addImm x kk | rnd x kk => simp [encode, decode, fields_encodeXKK]
  | drw x y n => simp [encode, decode, fields_encodeXYN]
  | seReg x y => simp [encode, decode, decodeFamily5, fields_encodeXYN]
  | sneReg x y => simp [encode, decode, decodeFamily9, fields_encodeXYN]
  | ldReg x y | or x y | and x y | xor x y | addReg x y | sub x y | shr x y | subn x y | shl x y =>
    simp [encode, decode, decodeFamily8, fields_encodeXYN]
  | skp x | sknp x => simp [encode, decode, decodeFamilyE, fields_encodeXKK]
  | ldVxDt x | ldVxK x | ldDtVx x | ldStVx x | addI x | ldF x | ldB x | stRegs x | ldRegs x =>
    simp [encode, decode, decodeFamilyF, fields_encodeXKK]

/-! ### The word a decoded instruction came from -/

/-- `w` is the word of `i`, and `i` is the instruction of its word: what O2 says of a decoded instruction. -/
def IsWordOf (w : Word) (i : Instr) : Prop := i.wellFormed = true ∧ encode i = w

theorem isWordOf_decodeFamily0 {w : Word} (hf : field w 15 12 = 0x0) : IsWordOf w (decodeFamily0 w) := by
  unfold decodeFamily0
  split
  · exact ⟨rfl, (‹w = 0x00E0#16›).symm⟩
  · split
    · exact ⟨rfl, (‹w = 0x00EE#16›).symm⟩
    · have word_eq : encode (.sys (fieldNNN w)) = w := encodeNNN_fields hf
      have not_cls : fieldNNN w ≠ 0x0E0#12 := fun e => ‹w ≠ 0x00E0#16› (by rw [← word_eq, e]; rfl)
      have not_ret : fieldNNN w ≠ 0x0EE#12 := fun e => ‹w ≠ 0x00EE#16› (by rw [← word_eq, e]; rfl)
      exact ⟨by simp [Instr.wellFormed, not_cls, not_ret], word_eq⟩

theorem isWordOf_of_decodeFamily5 {w : Word} {i : Instr} (hf : field w 15 12 = 0x5) (h : decodeFamily5 w = .ok i) :
    IsWordOf w i := by
  unfold decodeFamily5 at h
  split at h <;> cases h
  exact ⟨rfl, encodeXYN_of_lowNibble hf ‹_›⟩

theorem isWordOf_of_decodeFamily9 {w : Word} {i : Instr} (hf : field w 15 12 = 0x9) (h : decodeFamily9 w = .ok i) :
    IsWordOf w i := by
  unfold decodeFamily9 at h
  split at h <;> cases h
  exact ⟨rfl, encodeXYN_of_lowNibble hf ‹_›⟩

theorem isWordOf_of_decodeFamily8 {w : Word} {i : Instr} (hf : field w 15 12 = 0x8) (h : decodeFamily8 w = .ok i) :
    IsWordOf w i := by
  unfold decodeFamily8 at h
  split at h <;> cases h
  all_goals exact ⟨rfl, encodeXYN_of_lowNibble hf ‹_›⟩

theorem isWordOf_of_decodeFamilyE {w : Word} {i : Instr} (hf : field w 15 12 = 0xE) (h : decodeFamilyE w = .ok i) :
    IsWordOf w i := by
  unfold decodeFamilyE at h
  split at h <;> cases h
  all_goals exact ⟨rfl, encodeXKK_of_lowByte hf ‹_›⟩

theorem isWordOf_of_decodeFamilyF {w : Word} {i : Instr} (hf : field w 15 12 = 0xF) (h : decodeFamilyF w = .ok i) :
    IsWordOf w i := by
  unfold decodeFamilyF at h
  split at h <;> cases h
  all_goals exact ⟨rfl, encodeXKK_of_lowByte hf ‹_›⟩

theorem isWordOf_of_decode {w : Word} {i : Instr} (h : decode w = .ok i) : IsWordOf w i := by
  unfold decode at h
  split at h
  case h_1 hf =>
    cases h
    exact isWordOf_decodeFamily0 hf
  case h_6 hf => exact isWordOf_of_decodeFamily5 hf h
  case h_9 hf => exact isWordOf_of_decodeFamily8 hf h
  case h_10 hf => exact isWordOf_of_decodeFamily9 hf h
  case h_15 hf => exact isWordOf_of_decodeFamilyE hf h
  case h_16 =>
    have family : field w 15 12 = 0xF := by
      have := family_lt w
      simp only [imp_false] at *
      omega
    exact isWordOf_of_decodeFamilyF family h
  all_goals cases h
  case h_2 hf | h_3 hf | h_11 hf | h_12 hf => exact ⟨rfl, encodeNNN_fields hf⟩
  case h_4 hf | h_5 hf | h_7 hf | h_8 hf | h_13 hf => exact ⟨rfl, encodeXKK_fields hf⟩
  case h_14 hf => exact ⟨rfl, encodeXYN_fields hf⟩

/-! ### The words that raise UnknownOpcode (R79) -/

theorem decodeFamily0_eq_sys {w : Word} :
    (∃ nnn, decodeFamily0 w = .sys nnn) ↔ w ≠ 0x00E0#16 ∧ w ≠ 0x00EE#16 := by
  unfold decodeFamily0
  split
  · simp [‹w = 0x00E0#16›]
  · split
    · simp [‹w = 0x00EE#16›]
    · simp [*]

theorem decodeFamily5_of_ne {w : Word} (h : field w 3 0 ≠ 0) : decodeFamily5 w = .error (.unknownOpcode w) := by
  unfold decodeFamily5
  split
  · exact absurd ‹_› h
  · rfl

theorem decodeFamily9_of_ne {w : Word} (h : field w 3 0 ≠ 0) : decodeFamily9 w = .error (.unknownOpcode w) := by
  unfold decodeFamily9
  split
  · exact absurd ‹_› h
  · rfl

theorem decodeFamily5_error {w : Word} : (∃ e, decodeFamily5 w = .error e) ↔ field w 3 0 ≠ 0 := by
  refine ⟨fun ⟨e, rejected⟩ nibble => ?_, fun nibble => ⟨_, decodeFamily5_of_ne nibble⟩⟩
  simp [decodeFamily5, nibble] at rejected

theorem decodeFamily9_error {w : Word} : (∃ e, decodeFamily9 w = .error e) ↔ field w 3 0 ≠ 0 := by
  refine ⟨fun ⟨e, rejected⟩ nibble => ?_, fun nibble => ⟨_, decodeFamily9_of_ne nibble⟩⟩
  simp [decodeFamily9, nibble] at rejected

theorem decodeFamily8_error {w : Word} :
    (∃ e, decodeFamily8 w = .error e) ↔ field w 3 0 ∈ [0x8, 0x9, 0xA, 0xB, 0xC, 0xD, 0xF] := by
  have nibble_lt : field w 3 0 < 16 := Nat.mod_lt _ (by omega)
  unfold decodeFamily8
  split
  case h_10 =>
    simp only [imp_false] at *
    simp
    omega
  all_goals simp [*]

theorem decodeFamilyE_error {w : Word} : (∃ e, decodeFamilyE w = .error e) ↔ field w 7 0 ∉ [0x9E, 0xA1] := by
  unfold decodeFamilyE
  split
  case h_3 =>
    simp only [imp_false] at *
    simp [*]
  all_goals simp [*]

theorem decodeFamilyF_error {w : Word} :
    (∃ e, decodeFamilyF w = .error e) ↔ field w 7 0 ∉ [0x07, 0x0A, 0x15, 0x18, 0x1E, 0x29, 0x33, 0x55, 0x65] := by
  unfold decodeFamilyF
  split
  case h_10 =>
    simp only [imp_false] at *
    simp [*]
  all_goals simp [*]

theorem family_of_decode_sys {w : Word} {nnn : Addr} (h : decode w = .ok (.sys nnn)) : field w 15 12 = 0x0 := by
  obtain ⟨-, rfl⟩ := isWordOf_of_decode h
  exact (fields_encodeNNN (by omega) nnn).1

/-- A word is unknown exactly if it has no instruction, or is SYS, which raises UnknownOpcode itself. -/
theorem unknownWord_iff (w : Word) :
    UnknownWord w ↔ (∃ e, decode w = .error e) ∨ ∃ nnn, decode w = .ok (.sys nnn) := by
  by_cases family0 : field w 15 12 = 0x0
  · have decoded : decode w = .ok (decodeFamily0 w) := by simp only [decode, family0]
    simp [decoded, UnknownWord, family0, decodeFamily0_eq_sys]
  · have not_sys : ¬ ∃ nnn, decode w = .ok (.sys nnn) := fun ⟨_, h⟩ => family0 (family_of_decode_sys h)
    rw [or_iff_left not_sys]
    have := family_lt w
    unfold decode
    split
    case h_1 => contradiction
    case h_6 family => simp [decodeFamily5_error, UnknownWord, family]
    case h_9 family => simp [decodeFamily8_error, UnknownWord, family]
    case h_10 family => simp [decodeFamily9_error, UnknownWord, family]
    case h_15 family => simp [decodeFamilyE_error, UnknownWord, family]
    case h_16 =>
      have family : field w 15 12 = 0xF := by
        simp only [imp_false] at *
        omega
      simp [decodeFamilyF_error, UnknownWord, family]
    all_goals simp [UnknownWord, *]

/-! ### The rows that select a word (R83) -/

theorem selects_familyRow {m : String} {f : Nat} {w : Word} :
    (familyRow m f).selects w = true ↔ field w 15 12 = f := by
  simp [familyRow, OpcodeRow.selects]

theorem selects_nibbleRow {m : String} {f n : Nat} {w : Word} :
    (nibbleRow m f n).selects w = true ↔ field w 15 12 = f ∧ field w 3 0 = n := by
  simp [nibbleRow, OpcodeRow.selects]

theorem selects_byteRow {m : String} {f kk : Nat} {w : Word} :
    (byteRow m f kk).selects w = true ↔ field w 15 12 = f ∧ field w 7 0 = kk := by
  simp [byteRow, OpcodeRow.selects]

/-- A row that fixes all 16 bits selects the one word. -/
theorem eq_of_selects_wholeRow {m : String} {v : Nat} {w : Word}
    (h : (OpcodeRow.mk m [⟨15, 0, v⟩] []).selects w = true) : w = BitVec.ofNat 16 v := by
  have : w.toNat = v := by simpa [OpcodeRow.selects, field_whole] using h
  rw [← this, BitVec.ofNat_toNat, BitVec.setWidth_eq]

theorem of_selects_sysRow {w : Word}
    (h : (OpcodeRow.mk "SYS" [⟨15, 12, 0x0⟩] [0x00E0#16, 0x00EE#16]).selects w = true) :
    field w 15 12 = 0x0 ∧ w ≠ 0x00E0#16 ∧ w ≠ 0x00EE#16 := by
  simpa [OpcodeRow.selects] using h

/-- The mnemonic of the decoded instruction. -/
def decodedMnemonic (w : Word) : Option String := (decode w).toOption.map Instr.mnemonic

theorem decodedMnemonic_of_ok {w : Word} {i : Instr} (h : decode w = .ok i) :
    decodedMnemonic w = some i.mnemonic := by rw [decodedMnemonic, h]; rfl

/-! A row's fixed fields are the ones the decoder dispatches on, table part by table part. -/

theorem decodedMnemonic_of_selects_low {w : Word} :
    ∀ row ∈ opcodeRowsLow, row.selects w = true → decodedMnemonic w = some row.mnemonic := by
  simp only [opcodeRowsLow, List.forall_mem_cons, selects_familyRow, selects_nibbleRow]
  refine ⟨fun h => ?sys, fun h => ?cls, fun h => ?ret, ?_, ?_, ?_, ?_, ?_, ?_, ?_, List.forall_mem_nil _⟩
  case sys =>
    obtain ⟨family, not_cls, not_ret⟩ := of_selects_sysRow h
    simp [decodedMnemonic, Except.toOption, decode, family, decodeFamily0, not_cls, not_ret, Instr.mnemonic]
  case cls =>
    rw [eq_of_selects_wholeRow h]
    rfl
  case ret =>
    rw [eq_of_selects_wholeRow h]
    rfl
  all_goals
    intro h
    simp [decodedMnemonic, Except.toOption, decode, decodeFamily5, h, Instr.mnemonic, familyRow, nibbleRow]

theorem decodedMnemonic_of_selects_mid {w : Word} :
    ∀ row ∈ opcodeRowsMid, row.selects w = true → decodedMnemonic w = some row.mnemonic := by
  simp only [opcodeRowsMid, List.forall_mem_cons, selects_familyRow, selects_nibbleRow]
  refine ⟨?_, ?_, ?_, ?_, ?_, ?_, ?_, ?_, ?_, ?_, ?_, ?_, ?_, ?_, List.forall_mem_nil _⟩
  all_goals
    intro h
    simp [decodedMnemonic, Except.toOption, decode, decodeFamily8, decodeFamily9, h, Instr.mnemonic, familyRow,
      nibbleRow]

theorem decodedMnemonic_of_selects_high {w : Word} :
    ∀ row ∈ opcodeRowsHigh, row.selects w = true → decodedMnemonic w = some row.mnemonic := by
  simp only [opcodeRowsHigh, List.forall_mem_cons, selects_byteRow]
  refine ⟨?_, ?_, ?_, ?_, ?_, ?_, ?_, ?_, ?_, ?_, ?_, List.forall_mem_nil _⟩
  all_goals
    intro h
    simp [decodedMnemonic, Except.toOption, decode, decodeFamilyE, decodeFamilyF, h, Instr.mnemonic, byteRow]

/-- A list that holds `a`, nothing else and nothing twice is `[a]`. -/
theorem eq_singleton_of_nodup {α : Type} {l : List α} {a : α} (nodup : l.Nodup) (all : ∀ b ∈ l, b = a)
    (mem : a ∈ l) : l = [a] := by
  have replicated := List.eq_replicate_of_mem all
  have length_le : l.length ≤ 1 := by
    rw [replicated] at nodup
    exact List.nodup_replicate.1 nodup
  have length_pos : 0 < l.length := List.length_pos_of_mem mem
  rw [replicated, show l.length = 1 by omega, List.replicate_one]

theorem decodedMnemonic_of_selects {w : Word} {row : OpcodeRow} (mem : row ∈ opcodeTable) (h : row.selects w = true) :
    decodedMnemonic w = some row.mnemonic := by
  rw [opcodeTable, List.mem_append, List.mem_append] at mem
  rcases mem with (low | mid) | high
  · exact decodedMnemonic_of_selects_low row low h
  · exact decodedMnemonic_of_selects_mid row mid h
  · exact decodedMnemonic_of_selects_high row high h

open Sys2Proof.Laws in
/-- The laws of the table, one per instruction, as one. -/
theorem selects_own_row (i : Instr) : TableRow.Statement i :=
  match i with
  | .sys nnn => TableRow.sys nnn | .cls => TableRow.cls | .ret => TableRow.ret | .jp nnn => TableRow.jp nnn
  | .call nnn => TableRow.call nnn | .seImm x kk => TableRow.seImm x kk | .sneImm x kk => TableRow.sneImm x kk
  | .seReg x y => TableRow.seReg x y | .ldImm x kk => TableRow.ldImm x kk | .addImm x kk => TableRow.addImm x kk
  | .ldReg x y => TableRow.ldReg x y | .or x y => TableRow.or x y | .and x y => TableRow.and x y
  | .xor x y => TableRow.xor x y | .addReg x y => TableRow.addReg x y | .sub x y => TableRow.sub x y
  | .shr x y => TableRow.shr x y | .subn x y => TableRow.subn x y | .shl x y => TableRow.shl x y
  | .sneReg x y => TableRow.sneReg x y | .ldI nnn => TableRow.ldI nnn | .jpV0 nnn => TableRow.jpV0 nnn
  | .rnd x kk => TableRow.rnd x kk | .drw x y n => TableRow.drw x y n | .skp x => TableRow.skp x
  | .sknp x => TableRow.sknp x | .ldVxDt x => TableRow.ldVxDt x | .ldVxK x => TableRow.ldVxK x
  | .ldDtVx x => TableRow.ldDtVx x | .ldStVx x => TableRow.ldStVx x | .addI x => TableRow.addI x
  | .ldF x => TableRow.ldF x | .ldB x => TableRow.ldB x | .stRegs x => TableRow.stRegs x
  | .ldRegs x => TableRow.ldRegs x

/-! ### The statements -/

/-- Settles O1, format by format. -/
theorem decodeEncodeRoundTrip : Obligations.DecodeEncodeRoundTrip := by
  unfold Obligations.DecodeEncodeRoundTrip
  exact fun _ => decode_encode

/-- Settles O2, family by family. -/
theorem decodedWordEncodesBack : Obligations.DecodedWordEncodesBack := by
  unfold Obligations.DecodedWordEncodesBack
  exact fun _ _ => isWordOf_of_decode

/-- Settles O3: a row that selects the word bears the decoded mnemonic, no mnemonic stands twice in the table, and the
word of an instruction selects the instruction's own row. -/
theorem opcodeTableSelectsDecodedRow : Obligations.OpcodeTableSelectsDecodedRow := by
  unfold Obligations.OpcodeTableSelectsDecodedRow
  intro w
  have decoded : ∀ m ∈ (opcodeTable.filter (fun row => row.selects w)).map OpcodeRow.mnemonic,
      decodedMnemonic w = some m := by
    intro m hm
    obtain ⟨row, hrow, rfl⟩ := List.mem_map.1 hm
    obtain ⟨mem, selects⟩ := List.mem_filter.1 hrow
    exact decodedMnemonic_of_selects mem selects
  have nodup : ((opcodeTable.filter (fun row => row.selects w)).map OpcodeRow.mnemonic).Nodup :=
    (show (opcodeTable.map OpcodeRow.mnemonic).Nodup by decide).sublist (List.filter_sublist.map _)
  cases h : decode w with
  | ok i =>
    obtain ⟨wf, word_eq⟩ := isWordOf_of_decode h
    obtain ⟨row, mem, name, selects⟩ := selects_own_row i wf
    rw [decodedMnemonic_of_ok h] at decoded
    refine eq_singleton_of_nodup nodup (fun m hm => ?_) (List.mem_map.2 ⟨row, ?_, name⟩)
    · exact (Option.some.inj (decoded m hm)).symm
    · exact List.mem_filter.2 ⟨mem, word_eq ▸ selects⟩
  | error e =>
    refine List.eq_nil_iff_forall_not_mem.2 fun m hm => ?_
    simpa [decodedMnemonic, h, Except.toOption] using decoded m hm

/-- Settles O4: nine closed words. -/
theorem sampleWordsDecode : Obligations.SampleWordsDecode := by
  unfold Obligations.SampleWordsDecode
  decide

end Sys2Proof
end

section
/-! PROOFS. Every instruction in one table: the check of its own that it fails (`raisesIn`), or the state it completes
in (`completed`). The statements about all instructions (files 10, 20 and 60 of the spec) are then facts about the second
table, field by field. -/

namespace Sys2Proof.Machine

open Sys2Proof.Safety

namespace State

/-- The memory after a block write depends on the parameters and the memory before, and on nothing else. -/
theorem mem_writeBytes_congr {s t : State} (a : Nat) (bs : List Byte) (hp : t.params = s.params) (hm : t.mem = s.mem) :
    (t.writeBytes a bs).mem = (s.writeBytes a bs).mem := by
  induction bs generalizing s t a with
  | nil => exact hm
  | cons b bs ih => exact ih (a + 1) hp (by rw [writeByte_mem, writeByte_mem, hp, hm])

end State

/-! ### The state an instruction completes in -/

/-- A block write (R53), shown as what it is: a change of memory alone (`State.writeBytes_eq`). -/
def State.store (s : State) (a : Nat) (bs : List Byte) : State := { s with mem := (s.writeBytes a bs).mem }

/-- RET from a call stack that is not empty (R102): the newest entry to pc, SP one lower. -/
def State.popped (s : State) : State :=
  { s with sp := ⟨s.sp.val - 1, by omega⟩, pc := (s.stack[s.sp.val - 1]?).getD 0 }

/-- CALL to `target` with a call stack that is not full (R104): pc0 + 2 to the entry at SP, SP one higher. -/
def State.pushed (s : State) (target : Word) : State :=
  { s with stack := s.stack.setIfInBounds s.sp.val s.nextPc, sp := ⟨min (s.sp.val + 1) 16, by omega⟩, pc := target }

/-- LD Vx, K in one state: it waits, or stores the selected key (R166). -/
def State.awaitKey (s : State) (x : Reg) : State :=
  match selectKey s.params.keySelect (Config.keyDraw s.draws) (pressedKeys s.keys) with
  | none => s
  | some k => (s.useDraw.setReg x (keyByte k)).advance

/-- The state after an instruction whose own check, if it has one, passes. `exec_eq` ties it to `exec`. -/
def completed (i : Instr) (s : State) : State :=
  match i with
  | .sys _ => s
  | .cls => (s.present blankFb).advance
  | .ret => s.popped
  | .jp nnn => s.goto (zextAddr nnn)
  | .call nnn => s.pushed (zextAddr nnn)
  | .seImm x kk => s.skipIf (s.reg x == kk)
  | .sneImm x kk => s.skipIf (s.reg x != kk)
  | .seReg x y => s.skipIf (s.reg x == s.reg y)
  | .sneReg x y => s.skipIf (s.reg x != s.reg y)
  | .ldImm x kk => s.loadReg x kk
  | .addImm x kk => s.loadReg x (s.reg x + kk)
  | .ldReg x y => s.loadReg x (s.reg y)
  | .or x y => s.loadReg x (s.reg x ||| s.reg y)
  | .and x y => s.loadReg x (s.reg x &&& s.reg y)
  | .xor x y => s.loadReg x (s.reg x ^^^ s.reg y)
  | .addReg x y => s.loadRegFlag x (s.reg x + s.reg y) (addFlag (s.reg x) (s.reg y))
  | .sub x y => s.loadRegFlag x (s.reg x - s.reg y) (greaterFlag (s.reg x) (s.reg y))
  | .shr x _ => s.loadRegFlag x (s.reg x >>> 1) (shiftRightFlag (s.reg x))
  | .subn x y => s.loadRegFlag x (s.reg y - s.reg x) (greaterFlag (s.reg y) (s.reg x))
  | .shl x _ => s.loadRegFlag x (s.reg x <<< 1) (shiftLeftFlag (s.reg x))
  | .ldI nnn => (s.setIndex (zextAddr nnn)).advance
  | .addI x => (s.setIndex (s.index + zextByte (s.reg x))).advance
  | .ldF x => (s.setIndex (glyphAddr s x)).advance
  | .jpV0 nnn => s.goto (jumpOffset s nnn)
  | .rnd x kk => s.useDraw.loadReg x (Config.rnd s.draws &&& kk)
  | .drw x y n => s.draw x y (s.readBytes (dataAddr s) n.val)
  | .skp x => s.skipIf (s.keys.getLsbD (s.reg x).toNat)
  | .sknp x => s.skipIf (!s.keys.getLsbD (s.reg x).toNat)
  | .ldVxDt x => s.loadReg x s.dt
  | .ldVxK x => s.awaitKey x
  | .ldDtVx x => ({ s with dt := s.reg x } : State).advance
  | .ldStVx x => ({ s with st := s.reg x } : State).advance
  | .ldB x => (s.store (dataAddr s) (bcdDigits (s.reg x))).advance
  | .stRegs x => (s.store (dataAddr s) (regBlock s x)).advance
  | .ldRegs x => (s.setRegs (s.readBytes (dataAddr s) (x.val + 1))).advance

/-- The end of an instruction, from the check it fails and the state it completes in. -/
def latchOr (i : Instr) (s t : State) : Option Raised → Host.Outcome State Fault Refusal
  | some r => .next (s.takeFault r (encode i))
  | none => .next t

theorem settle_readRange (i : Instr) (s : State) (a n : Nat) (f : List Byte → State) :
    settle i s ((s.readRange a n).map f) = latchOr i s (f (s.readBytes a n)) (outOfBounds a n) := by
  unfold State.readRange
  cases outOfBounds a n <;> rfl

theorem settle_writeRange (i : Instr) (s : State) (a : Nat) (bs : List Byte) :
    settle i s ((s.writeRange a bs).map State.advance) =
      latchOr i s (s.store a bs).advance (outOfBounds a bs.length) := by
  rw [State.store, ← State.writeBytes_eq]
  unfold State.writeRange
  cases outOfBounds a bs.length <;> rfl

theorem settle_keyPressed (i : Instr) (s : State) (b : Byte) (f : Bool → State) :
    settle i s ((keyPressed s b).map f) = latchOr i s (f (s.keys.getLsbD b.toNat))
      (if 15 < b.toNat then some ⟨.keyIndexOutOfRange, b.toNat⟩ else none) := by
  unfold keyPressed
  split <;> rfl

theorem settle_pop (i : Instr) (s : State) :
    settle i s (s.pop.map (fun popped => popped.2.goto popped.1)) =
      latchOr i s s.popped (if s.sp.val = 0 then some ⟨.stackUnderflow, 0⟩ else none) := by
  split
  · rw [State.pop_error.2 ⟨‹s.sp.val = 0›, rfl⟩]
    rfl
  · have pos : 0 < s.sp.val := by omega
    simp only [State.pop, dif_pos pos, Except.map, settle_ok, latchOr, State.popped, State.goto]
    rw [getElem?_pos]
    rfl

theorem settle_push (i : Instr) (s : State) (target : Word) :
    settle i s ((s.push s.nextPc).map (fun t => t.goto target)) =
      latchOr i s (s.pushed target) (if s.sp.val = 16 then some ⟨.stackOverflow, 0⟩ else none) := by
  split
  · rw [State.push_error.2 ⟨‹s.sp.val = 16›, rfl⟩]
    rfl
  · have lt : s.sp.val < 16 := by omega
    have stack_eq : s.stack.set s.sp.val s.nextPc = s.stack.setIfInBounds s.sp.val s.nextPc :=
      Vector.ext fun k hk => by rw [Vector.getElem_set, Vector.getElem_setIfInBounds]
    have sp_eq : min (s.sp.val + 1) 16 = s.sp.val + 1 := by omega
    simp only [State.push, dif_pos lt, Except.map, settle_ok, latchOr, State.pushed, State.goto, stack_eq, sp_eq]

@[simp] theorem length_regBlock (s : State) (x : Reg) : (regBlock s x).length = x.val + 1 := by
  simp [regBlock]

theorem toNat_encode_sys (nnn : Addr) : (encode (.sys nnn)).toNat = nnn.toNat :=
  (toNat_encodeNNN (by omega) nnn).trans (by omega)

theorem exec_ldVxK (x : Reg) (s : State) : exec (.ldVxK x) s = .next (s.awaitKey x) := by
  simp only [exec, execLdVxK, State.awaitKey]
  cases selectKey s.params.keySelect (Config.keyDraw s.draws) (pressedKeys s.keys) <;> rfl

/-- Every instruction in every state: the fault of the table of causes, or the state it completes in. -/
theorem exec_eq (i : Instr) (s : State) : exec i s = latchOr i s (completed i s) (raisesIn i s) := by
  cases i
  case sys nnn =>
    simp only [exec, execSys, settle_error, toNat_encode_sys]
    rfl
  case ret => exact settle_pop ..
  case call nnn => exact settle_push ..
  case drw x y n => exact settle_readRange ..
  case ldRegs x => exact settle_readRange ..
  case ldB x => exact settle_writeRange ..
  case stRegs x => exact (settle_writeRange ..).trans (by rw [length_regBlock]; rfl)
  case skp x => exact settle_keyPressed ..
  case sknp x => exact settle_keyPressed ..
  case ldVxK x => exact exec_ldVxK x s
  all_goals rfl

theorem exec_of_raises {i : Instr} {s : State} {r : Raised} (h : raisesIn i s = some r) :
    exec i s = .next (s.takeFault r (encode i)) := by
  rw [exec_eq, h]
  rfl

theorem exec_of_completes {i : Instr} {s : State} (h : raisesIn i s = none) : exec i s = .next (completed i s) := by
  rw [exec_eq, h]
  rfl

/-- What an instruction can do: latch the fault of its own check and change nothing else, or complete. -/
theorem exec_cases {i : Instr} {s t : State} (h : exec i s = .next t) :
    (∃ r, raisesIn i s = some r ∧ t = s.takeFault r (encode i)) ∨ (raisesIn i s = none ∧ t = completed i s) := by
  cases hr : raisesIn i s with
  | some r =>
    rw [exec_of_raises hr] at h
    cases h
    exact .inl ⟨r, rfl, rfl⟩
  | none =>
    rw [exec_of_completes hr] at h
    cases h
    exact .inr ⟨rfl, rfl⟩

/-- No instruction stops the machine. -/
theorem exec_total (i : Instr) (s : State) : ∃ t, exec i s = .next t := by
  cases h : raisesIn i s with
  | some r => exact ⟨_, exec_of_raises h⟩
  | none => exact ⟨_, exec_of_completes h⟩

/-! ### LD Vx, K (R166) -/

theorem pressedKeys_eq_nil {keys : BitVec 16} : pressedKeys keys = [] ↔ keys = 0 := by
  constructor
  · intro h
    refine BitVec.eq_of_getLsbD_eq fun k hk => ?_
    have not_mem : (⟨k, hk⟩ : Reg) ∉ pressedKeys keys := by simp [h]
    rw [mem_pressedKeys, Bool.not_eq_true] at not_mem
    rw [not_mem]
    exact BitVec.getLsbD_zero.symm
  · rintro rfl
    rfl

/-- With no key pressed the instruction changes nothing. -/
theorem State.awaitKey_of_no_key {s : State} (h : s.keys = 0) (x : Reg) : s.awaitKey x = s := by
  rw [State.awaitKey, selectKey_eq_none.2 (pressedKeys_eq_nil.2 h)]

/-- With some key pressed a pressed key is stored. -/
theorem State.awaitKey_of_key {s : State} (h : s.keys ≠ 0) (x : Reg) :
    ∃ k, selectKey s.params.keySelect (Config.keyDraw s.draws) (pressedKeys s.keys) = some k ∧
      s.awaitKey x = s.useDraw.loadReg x (keyByte k) := by
  cases hk : selectKey s.params.keySelect (Config.keyDraw s.draws) (pressedKeys s.keys) with
  | none => exact absurd (pressedKeys_eq_nil.1 (selectKey_eq_none.1 hk)) h
  | some k => exact ⟨k, rfl, by rw [State.awaitKey, hk]; rfl⟩

/-- What LD Vx, K can do. -/
theorem State.awaitKey_cases (s : State) (x : Reg) :
    (s.keys = 0 ∧ s.awaitKey x = s) ∨ (s.keys ≠ 0 ∧ ∃ b, s.awaitKey x = s.useDraw.loadReg x b) := by
  by_cases h : s.keys = 0
  · exact .inl ⟨h, State.awaitKey_of_no_key h x⟩
  · obtain ⟨k, -, stored⟩ := State.awaitKey_of_key h x
    exact .inr ⟨h, _, stored⟩

/-- Two states that differ at most in the registers, pc and the draw counter. -/
def RegsOnly (s t : State) : Prop := ∃ v pc draws, t = { s with v := v, pc := pc, draws := draws }

/-- What does not look at the registers, pc and the draw counter is the same in both. -/
theorem RegsOnly.keeps {s t : State} {α : Type} (h : RegsOnly s t) (f : State → α)
    (hf : ∀ v pc draws, f { s with v := v, pc := pc, draws := draws } = f s) : f t = f s := by
  obtain ⟨v, pc, draws, rfl⟩ := h
  exact hf v pc draws

theorem regsOnly_ldVxK (s : State) (x : Reg) : RegsOnly s (completed (.ldVxK x) s) := by
  rcases s.awaitKey_cases x with ⟨-, same⟩ | ⟨-, b, stored⟩
  · exact ⟨s.v, s.pc, s.draws, same⟩
  · exact ⟨_, _, _, stored⟩

theorem regsOnly_ldRegs (s : State) (x : Reg) : RegsOnly s (completed (.ldRegs x) s) := ⟨_, _, _, rfl⟩

/-! ### The registers after an instruction (R22, R25) -/

namespace State

variable (s : State)

/-- Reading a register after an ALU instruction with a flag: VF is the flag, also where it is the destination (R26). -/
theorem reg_loadRegFlag (x r : Reg) (b : Byte) (c : Bool) :
    (s.loadRegFlag x b c).reg r = if r = 15 then flagByte c else if r = x then b else s.reg r := by
  rw [loadRegFlag, reg_advance, setResultFlag, reg_setFlag, reg_setReg]

/-- Reading a register after DRW: only VF changes. -/
theorem reg_draw_of_ne (x y : Reg) (sprite : List Byte) {r : Reg} (h : r ≠ 15) :
    (s.draw x y sprite).reg r = s.reg r := by
  simp only [draw, reg_advance, reg_setFlag, if_neg h, reg_present]

/-- Reading a register after LD Vx, [I]: V0 to Vx are the bytes, the registers above x keep their values. -/
theorem reg_setRegs_readBytes (a n : Nat) (r : Reg) :
    (s.setRegs (s.readBytes a n)).reg r = if r.val < n then s.readByte (a + r.val) else s.reg r := by
  rw [reg_setRegs, getElem?_readBytes]
  split <;> rfl

end State

/-- An instruction that completes keeps every register that is not one of its destinations. -/
theorem reg_completed {i : Instr} {r : Reg} (h : mayWriteReg i r = false) (s : State) :
    (completed i s).reg r = s.reg r := by
  cases i with
  | ldImm x _ | addImm x _ | ldReg x _ | or x _ | and x _ | xor x _ | ldVxDt x | rnd x _ =>
    have ne : r ≠ x := by simpa [mayWriteReg] using h
    simp only [completed, State.reg_loadReg, if_neg ne, State.reg_useDraw]
  | addReg x _ | sub x _ | shr x _ | subn x _ | shl x _ =>
    have ne : r ≠ x ∧ r ≠ 15 := by simpa [mayWriteReg] using h
    simp only [completed, State.reg_loadRegFlag, if_neg ne.1, if_neg ne.2]
  | drw x y n => exact s.reg_draw_of_ne x y _ (by simpa [mayWriteReg] using h)
  | ldVxK x =>
    have ne : r ≠ x := by simpa [mayWriteReg] using h
    rcases s.awaitKey_cases x with ⟨-, same⟩ | ⟨-, b, stored⟩
    · rw [completed, same]
    · rw [completed, stored, State.reg_loadReg, if_neg ne, State.reg_useDraw]
  | ldRegs x =>
    have lt : ¬ r.val < x.val + 1 := by
      simp [mayWriteReg] at h
      omega
    rw [completed, State.reg_advance, State.reg_setRegs_readBytes, if_neg lt]
  | _ => rfl

/-! ### Memory after an instruction (R56, R58) -/

theorem State.readByte_store (s : State) (a : Nat) (bs : List Byte) (b : Nat) :
    (s.store a bs).readByte b = if a ≤ b ∧ b < a + bs.length then (bs[b - a]?).getD 0 else s.readByte b := by
  rw [store, ← writeBytes_eq, readByte_writeBytes]

/-- An instruction that completes keeps every byte outside its store span. -/
theorem readByte_completed {i : Instr} {s : State} {a : Nat}
    (h : a < (storeSpan i s).1 ∨ (storeSpan i s).1 + (storeSpan i s).2 ≤ a) :
    (completed i s).readByte a = s.readByte a := by
  cases i with
  | ldB x =>
    have outside : ¬ (dataAddr s ≤ a ∧ a < dataAddr s + (bcdDigits (s.reg x)).length) := by
      simp only [storeSpan, bcdDigits, List.length_cons, List.length_nil] at h ⊢
      omega
    rw [completed, State.readByte_advance, State.readByte_store, if_neg outside]
  | stRegs x =>
    have outside : ¬ (dataAddr s ≤ a ∧ a < dataAddr s + (regBlock s x).length) := by
      simp only [storeSpan, length_regBlock] at h ⊢
      omega
    rw [completed, State.readByte_advance, State.readByte_store, if_neg outside]
  | ldVxK x => exact (regsOnly_ldVxK s x).keeps (·.readByte a) fun _ _ _ => rfl
  | ldRegs x => exact (regsOnly_ldRegs s x).keeps (·.readByte a) fun _ _ _ => rfl
  | _ => rfl

/-! ### pc after an instruction (R28) -/

theorem zextAddr_eq_ofNat (nnn : Addr) : zextAddr nnn = BitVec.ofNat 16 nnn.toNat :=
  BitVec.eq_of_toNat_eq (by have := nnn.isLt; rw [toNat_zextAddr, BitVec.toNat_ofNat]; omega)

theorem toNat_zextByte (b : Byte) : (zextByte b).toNat = b.toNat := BitVec.toNat_setWidth_of_le (by decide)

/-- R109: the sum does not wrap. -/
theorem toNat_jumpOffset (s : State) (nnn : Addr) : (jumpOffset s nnn).toNat = nnn.toNat + (s.reg 0).toNat := by
  have := nnn.isLt
  have := (s.reg 0).isLt
  rw [jumpOffset, BitVec.toNat_add, toNat_zextAddr, toNat_zextByte]
  omega

theorem jumpOffset_eq_ofNat (s : State) (nnn : Addr) :
    jumpOffset s nnn = BitVec.ofNat 16 (nnn.toNat + (s.reg 0).toNat) := by
  rw [← toNat_jumpOffset, BitVec.ofNat_toNat, BitVec.setWidth_eq]

/-- An instruction that completes leaves pc as the pc table says. -/
theorem pc_completed {i : Instr} {s : State} (h : raisesIn i s = none) : (completed i s).pc = pcAfter i s := by
  cases i with
  | sys nnn => cases h
  | jp nnn | call nnn => exact zextAddr_eq_ofNat nnn
  | jpV0 nnn => exact jumpOffset_eq_ofNat s nnn
  | seImm x kk | seReg x y => simp only [completed, pcAfter, State.skipIf_pc_eq_ite, beq_iff_eq]
  | sneImm x kk | sneReg x y => simp only [completed, pcAfter, State.skipIf_pc_eq_ite, bne_iff_ne]
  | skp x => exact s.skipIf_pc_eq_ite _
  | sknp x => simp only [completed, pcAfter, State.skipIf_pc_eq_ite, Bool.not_eq_true']
  | ldVxK x =>
    rcases s.awaitKey_cases x with ⟨no_key, same⟩ | ⟨key, b, stored⟩
    · rw [completed, same, pcAfter, if_pos no_key]
    · rw [completed, stored, pcAfter, if_neg key]
      rfl
  | _ => rfl

/-! ### Everything else after an instruction -/

/-- The fields that no instruction that completes writes. -/
def State.untouched (s : State) :=
  (s.fault, s.keys, s.params, s.events, s.loadOpen, s.loadRefusal)

theorem untouched_completed (i : Instr) (s : State) : (completed i s).untouched = s.untouched := by
  cases i with
  | ldVxK x => exact (regsOnly_ldVxK s x).keeps State.untouched fun _ _ _ => rfl
  | ldRegs x => exact (regsOnly_ldRegs s x).keeps State.untouched fun _ _ _ => rfl
  | _ => rfl

/-- An instruction that completes changes neither the latch, the keys, the parameters, the environment's events nor the
LOAD contract. -/
theorem completed_frame (i : Instr) (s : State) :
    (completed i s).fault = s.fault ∧ (completed i s).keys = s.keys ∧ (completed i s).params = s.params ∧
      (completed i s).events = s.events ∧ (completed i s).loadOpen = s.loadOpen ∧
      (completed i s).loadRefusal = s.loadRefusal := by
  simpa only [State.untouched, Prod.mk.injEq] using untouched_completed i s

theorem index_completed (i : Instr) (s : State) :
    (completed i s).index = s.index ∨ (∃ nnn, i = .ldI nnn) ∨ (∃ x, i = .addI x) ∨ ∃ x, i = .ldF x := by
  cases i with
  | ldI nnn => exact .inr (.inl ⟨nnn, rfl⟩)
  | addI x => exact .inr (.inr (.inl ⟨x, rfl⟩))
  | ldF x => exact .inr (.inr (.inr ⟨x, rfl⟩))
  | ldVxK x => exact .inl ((regsOnly_ldVxK s x).keeps State.index fun _ _ _ => rfl)
  | ldRegs x => exact .inl ((regsOnly_ldRegs s x).keeps State.index fun _ _ _ => rfl)
  | _ => exact .inl rfl

theorem sp_completed (i : Instr) (s : State) :
    (completed i s).sp = s.sp ∨ (∃ nnn, i = .call nnn) ∨ i = .ret := by
  cases i with
  | call nnn => exact .inr (.inl ⟨nnn, rfl⟩)
  | ret => exact .inr (.inr rfl)
  | ldVxK x => exact .inl ((regsOnly_ldVxK s x).keeps State.sp fun _ _ _ => rfl)
  | ldRegs x => exact .inl ((regsOnly_ldRegs s x).keeps State.sp fun _ _ _ => rfl)
  | _ => exact .inl rfl

theorem stack_completed (i : Instr) (s : State) : (completed i s).stack = s.stack ∨ ∃ nnn, i = .call nnn := by
  cases i with
  | call nnn => exact .inr ⟨nnn, rfl⟩
  | ldVxK x => exact .inl ((regsOnly_ldVxK s x).keeps State.stack fun _ _ _ => rfl)
  | ldRegs x => exact .inl ((regsOnly_ldRegs s x).keeps State.stack fun _ _ _ => rfl)
  | _ => exact .inl rfl

theorem dt_completed (i : Instr) (s : State) : (completed i s).dt = s.dt ∨ ∃ x, i = .ldDtVx x := by
  cases i with
  | ldDtVx x => exact .inr ⟨x, rfl⟩
  | ldVxK x => exact .inl ((regsOnly_ldVxK s x).keeps State.dt fun _ _ _ => rfl)
  | ldRegs x => exact .inl ((regsOnly_ldRegs s x).keeps State.dt fun _ _ _ => rfl)
  | _ => exact .inl rfl

theorem st_completed (i : Instr) (s : State) : (completed i s).st = s.st ∨ ∃ x, i = .ldStVx x := by
  cases i with
  | ldStVx x => exact .inr ⟨x, rfl⟩
  | ldVxK x => exact .inl ((regsOnly_ldVxK s x).keeps State.st fun _ _ _ => rfl)
  | ldRegs x => exact .inl ((regsOnly_ldRegs s x).keeps State.st fun _ _ _ => rfl)
  | _ => exact .inl rfl

theorem display_completed (i : Instr) (s : State) :
    ((completed i s).fb = s.fb ∧ (completed i s).dirty = s.dirty) ∨ i = .cls ∨ ∃ x y n, i = .drw x y n := by
  cases i with
  | cls => exact .inr (.inl rfl)
  | drw x y n => exact .inr (.inr ⟨x, y, n, rfl⟩)
  | ldVxK x => exact .inl (Prod.mk.inj ((regsOnly_ldVxK s x).keeps (fun u => (u.fb, u.dirty)) fun _ _ _ => rfl))
  | ldRegs x => exact .inl (Prod.mk.inj ((regsOnly_ldRegs s x).keeps (fun u => (u.fb, u.dirty)) fun _ _ _ => rfl))
  | _ => exact .inl ⟨rfl, rfl⟩

theorem draws_completed (i : Instr) (s : State) :
    (completed i s).draws = s.draws ∨ (∃ x kk, i = .rnd x kk) ∨ ∃ x, i = .ldVxK x := by
  cases i with
  | rnd x kk => exact .inr (.inl ⟨x, kk, rfl⟩)
  | ldVxK x => exact .inr (.inr ⟨x, rfl⟩)
  | ldRegs x => exact .inl (by simp only [completed, State.advance_draws, State.setRegs_draws])
  | _ => exact .inl rfl

/-! ### The statements -/

/-- Settles O50: the check of each instruction is `raisesIn`, and the state it completes in has the latch of before and
the pc of the table. -/
theorem faultsAndPcByTable : Obligations.FaultsAndPcByTable := by
  unfold Obligations.FaultsAndPcByTable
  refine fun i s => ⟨fun r h => exec_of_raises h, fun h => ?_⟩
  obtain ⟨fault_eq, -⟩ := completed_frame i s
  exact ⟨completed i s, exec_of_completes h, fault_eq, pc_completed h⟩

/-- Settles O53: a fault writes no register, and completion only the destinations. -/
theorem registerFrame : Obligations.RegisterFrame := by
  unfold Obligations.RegisterFrame
  intro i s t r h hr
  rcases exec_cases h with ⟨e, -, rfl⟩ | ⟨-, rfl⟩
  · exact s.reg_takeFault e _ r
  · exact reg_completed hr s

/-- Settles O54: a fault writes no byte, and completion only the store span. -/
theorem memoryFrame : Obligations.MemoryFrame := by
  unfold Obligations.MemoryFrame
  intro i s t a h ha
  rcases exec_cases h with ⟨e, -, rfl⟩ | ⟨-, rfl⟩
  · exact s.readByte_takeFault e _ a
  · exact readByte_completed ha

/-- Settles O55, field by field: a fault changes none of these. -/
theorem specialStateFrame : Obligations.SpecialStateFrame := by
  unfold Obligations.SpecialStateFrame
  intro i s t h
  rcases exec_cases h with ⟨e, -, rfl⟩ | ⟨-, rfl⟩
  · simp
  · obtain ⟨-, others⟩ := completed_frame i s
    refine ⟨(index_completed i s).resolve_left, (sp_completed i s).resolve_left, (stack_completed i s).resolve_left,
      (dt_completed i s).resolve_left, (st_completed i s).resolve_left, fun changed => ?_,
      (draws_completed i s).resolve_left, others⟩
    refine (display_completed i s).resolve_left fun ⟨same_fb, same_dirty⟩ => ?_
    exact changed.elim (· same_fb) (· same_dirty)

end Sys2Proof.Machine
end

section
/-! PROOFS. Control flow and arithmetic (files 40 and 41 of the spec): SYS, SE and SNE on registers, JP V0, the ALU
instructions with a flag, and RND. First the words and what `loadRegFlag` does, the one write that all five flag writers
of the ALU end in, then the statements. -/

namespace Sys2Proof.Machine

open Sys2Proof.Safety

/-! ### The words of SE and SNE on registers (R71, R75) -/

theorem encodedAs_seReg (x y : Reg) : EncodedAs (.seReg x y) (0x5000 + 256 * x.val + 16 * y.val) :=
  encodedAs_of_encodeXYN (f := 0x5) (n := 0x0) (by omega) rfl rfl (decode_encode (i := .seReg x y) rfl)

theorem encodedAs_sneReg (x y : Reg) : EncodedAs (.sneReg x y) (0x9000 + 256 * x.val + 16 * y.val) :=
  encodedAs_of_encodeXYN (f := 0x9) (n := 0x0) (by omega) rfl rfl (decode_encode (i := .sneReg x y) rfl)

/-! ### The result register, the flag and their frame (R25, R26, R120) -/

theorem toNat_flagByte (c : Bool) : (flagByte c).toNat = if c then 1 else 0 := by cases c <;> rfl

namespace State

variable (s : State) (x : Reg) (b : Byte) (c : Bool)

theorem reg_loadRegFlag_flag : (s.loadRegFlag x b c).reg 15 = flagByte c := by
  rw [reg_loadRegFlag, if_pos rfl]

theorem reg_loadRegFlag_result {x : Reg} (h : x ≠ 15) : (s.loadRegFlag x b c).reg x = b := by
  rw [reg_loadRegFlag, if_neg h, if_pos rfl]

/-- An ALU instruction with a flag writes its destination, VF and pc alone. -/
theorem loadRegFlag_frame : (∀ r, r ≠ x → r ≠ 15 → (s.loadRegFlag x b c).reg r = s.reg r) ∧
    (s.loadRegFlag x b c).pc = s.pc + 2 ∧ { s.loadRegFlag x b c with v := s.v, pc := s.pc } = s :=
  ⟨fun r hx h15 => by rw [reg_loadRegFlag, if_neg h15, if_neg hx], rfl, rfl⟩

end State

/-! ### The bits shifted out (R129, R131) -/

theorem toNat_flagByte_shiftRight (a : Byte) : (flagByte (shiftRightFlag a)).toNat = a.toNat % 2 := by
  rw [toNat_flagByte, shiftRightFlag, BitVec.getLsbD, Nat.testBit_zero]
  have := Nat.mod_two_eq_zero_or_one a.toNat
  simp only [decide_eq_true_eq]
  split <;> omega

theorem toNat_flagByte_shiftLeft (a : Byte) : (flagByte (shiftLeftFlag a)).toNat = a.toNat / 128 := by
  have := a.isLt
  rw [toNat_flagByte, shiftLeftFlag, BitVec.getLsbD, Nat.testBit_eq_decide_div_mod_eq]
  simp only [decide_eq_true_eq]
  split <;> omega

/-! ### The statements -/

/-- Settles O9: the check that SYS always fails. -/
theorem sysRaisesUnknownOpcode : Obligations.SysRaisesUnknownOpcode := by
  unfold Obligations.SysRaisesUnknownOpcode
  intro s nnn
  have word : encode (.sys nnn) = BitVec.ofNat 16 nnn.toNat := by
    rw [← toNat_encode_sys, BitVec.ofNat_toNat, BitVec.setWidth_eq]
  rw [exec_of_raises (i := .sys nnn) (s := s) rfl, word]
  rfl

/-- Settles O14: both skips are `skipIf`, SNE_REG with the negated condition. -/
theorem skipsOnRegisters : Obligations.SkipsOnRegisters := by
  unfold Obligations.SkipsOnRegisters
  refine ⟨fun x y => ⟨encodedAs_seReg x y, encodedAs_sneReg x y⟩, fun w family nibble => ?_, fun s x y =>
    ⟨⟨s.skipIf (s.reg x == s.reg y), rfl, ?_, s.skipIf_frame _⟩,
      ⟨s.skipIf (s.reg x != s.reg y), rfl, ?_, s.skipIf_frame _⟩⟩⟩
  · rcases family with family | family
    · simp only [decode, family, decodeFamily5_of_ne nibble]
    · simp only [decode, family, decodeFamily9_of_ne nibble]
  · simp only [State.skipIf_pc_eq_ite, beq_iff_eq]
  · simp only [State.skipIf_pc_eq_ite, bne_iff_ne, ne_eq, ite_not]

/-- Settles O15. -/
theorem jpV0AddsV0 : Obligations.JpV0AddsV0 := by
  unfold Obligations.JpV0AddsV0
  exact fun s nnn => ⟨s.goto (jumpOffset s nnn), rfl, toNat_jumpOffset s nnn, s.goto_frame _⟩

/-- Settles O20: the sum of two bytes is the one modulo 256, and the flag is written last. -/
theorem addRegSetsCarry : Obligations.AddRegSetsCarry := by
  unfold Obligations.AddRegSetsCarry
  refine fun s x y => ⟨s.loadRegFlag x _ _, rfl, fun hx => ?_, ?_, s.loadRegFlag_frame x _ _⟩
  · rw [s.reg_loadRegFlag_result _ _ hx, BitVec.toNat_add]
  · simp only [State.reg_loadRegFlag_flag, toNat_flagByte, addFlag, decide_eq_true_eq]

/-- Settles O21: SUBN is SUB with the operands exchanged. -/
theorem subtractionsSetStrictFlag : Obligations.SubtractionsSetStrictFlag := by
  unfold Obligations.SubtractionsSetStrictFlag
  have difference : ∀ a b : Byte, (a - b).toNat = (a.toNat + 256 - b.toNat) % 256 := fun a b => by
    have := b.isLt
    rw [BitVec.toNat_sub]
    omega
  refine fun s x y => ⟨s.loadRegFlag x _ _, s.loadRegFlag x _ _, rfl, rfl, fun hx => ?_, ?_, fun hx => ?_, ?_, ?_⟩
  · rw [s.reg_loadRegFlag_result _ _ hx, difference]
  · simp only [State.reg_loadRegFlag_flag, toNat_flagByte, greaterFlag, decide_eq_true_eq]
  · rw [s.reg_loadRegFlag_result _ _ hx, difference]
  · simp only [State.reg_loadRegFlag_flag, toNat_flagByte, greaterFlag, decide_eq_true_eq]
  · simp only [List.forall_mem_cons, List.not_mem_nil, false_imp_iff, implies_true, and_true]
    exact ⟨s.loadRegFlag_frame x _ _, s.loadRegFlag_frame x _ _⟩

/-- Settles O22. -/
theorem shiftsSetShiftedOutBit : Obligations.ShiftsSetShiftedOutBit := by
  unfold Obligations.ShiftsSetShiftedOutBit
  refine fun s x y => ⟨s.loadRegFlag x _ _, s.loadRegFlag x _ _, rfl, rfl, fun hx => ?_, ?_, fun hx => ?_, ?_, ?_⟩
  · rw [s.reg_loadRegFlag_result _ _ hx, BitVec.toNat_ushiftRight, Nat.shiftRight_eq_div_pow]
  · rw [State.reg_loadRegFlag_flag, toNat_flagByte_shiftRight]
  · rw [s.reg_loadRegFlag_result _ _ hx, BitVec.toNat_shiftLeft, Nat.shiftLeft_eq]
  · rw [State.reg_loadRegFlag_flag, toNat_flagByte_shiftLeft]
  · simp only [List.forall_mem_cons, List.not_mem_nil, false_imp_iff, implies_true, and_true]
    exact ⟨s.loadRegFlag_frame x _ _, s.loadRegFlag_frame x _ _⟩

/-- Settles O23: the free byte stays opaque, and the next state counts the draw. -/
theorem rndMasksTheFreeByte : Obligations.RndMasksTheFreeByte := by
  unfold Obligations.RndMasksTheFreeByte
  intro s x kk
  obtain ⟨others, -, -⟩ := s.useDraw.loadReg_frame x (Config.rnd s.draws &&& kk)
  exact ⟨s.useDraw.loadReg x _, rfl, s.useDraw.reg_loadReg_self x _, rfl, others, rfl, rfl⟩

end Sys2Proof.Machine
end

section
/-! PROOFS. The index register and memory (file 42 of the spec, and the bounds of file 20, section 3): ADD I, LD F,
LD B, LD [I], Vx and LD Vx, [I]. First when the four memory instructions pass their bounds check and which bytes and
registers they write, then the statements. -/

namespace Sys2Proof.Machine

open Sys2Proof.Safety

/-! ### The index register (R142, R143) -/

theorem toNat_glyphAddr (s : State) (x : Reg) :
    (glyphAddr s x).toNat = s.params.fontBase.val + 5 * (s.reg x).toNat := by
  have := s.params.fontBase.isLt
  have := (s.reg x).isLt
  rw [glyphAddr, BitVec.toNat_ofNat]
  omega

/-! ### The bounds check of the memory instructions (R55, R140) -/

/-- The check of an access to the `k + 1` bytes at I passes when the last one exists. -/
theorem outOfBounds_dataAddr_of_le {s : State} {k : Nat} (h : s.index.toNat + k ≤ 0xFFF) :
    outOfBounds (dataAddr s) (k + 1) = none :=
  outOfBounds_eq_none.2 (.inr (by rw [dataAddr]; omega))

theorem outOfBounds_dataAddr_of_gt {s : State} {k : Nat} (h : 0xFFF < s.index.toNat + k) :
    outOfBounds (dataAddr s) (k + 1) = some ⟨.outOfBoundsAccess, max s.index.toNat 0x1000⟩ :=
  outOfBounds_eq_some.2 ⟨by omega, by rw [dataAddr]; omega, rfl⟩

theorem exec_ldB_of_le {s : State} (h : s.index.toNat + 2 ≤ 0xFFF) (x : Reg) :
    exec (.ldB x) s = .next (s.store s.index.toNat (bcdDigits (s.reg x))).advance :=
  exec_of_completes (i := .ldB x) (outOfBounds_dataAddr_of_le h)

theorem exec_stRegs_of_le {s : State} {x : Reg} (h : s.index.toNat + x.val ≤ 0xFFF) :
    exec (.stRegs x) s = .next (s.store s.index.toNat (regBlock s x)).advance :=
  exec_of_completes (i := .stRegs x) (outOfBounds_dataAddr_of_le h)

theorem exec_ldRegs_of_le {s : State} {x : Reg} (h : s.index.toNat + x.val ≤ 0xFFF) :
    exec (.ldRegs x) s = .next (s.setRegs (s.readBytes s.index.toNat (x.val + 1))).advance :=
  exec_of_completes (i := .ldRegs x) (outOfBounds_dataAddr_of_le h)

/-! ### What a store writes and what it keeps (R56, R145) -/

namespace State

variable (s : State) (a : Nat) (bs : List Byte)

theorem readByte_store_at {k : Nat} (h : k < bs.length) : (s.store a bs).readByte (a + k) = bs[k] := by
  rw [readByte_store, if_pos (by omega), Nat.add_sub_cancel_left, getElem?_pos bs k h, Option.getD_some]

theorem readByte_store_outside {b : Nat} (h : b < a ∨ a + bs.length ≤ b) :
    (s.store a bs).readByte b = s.readByte b := by
  rw [readByte_store, if_neg (by omega)]

/-- A store followed by the advance of pc writes memory and pc alone. -/
theorem advance_store_frame : (s.store a bs).advance.pc = s.pc + 2 ∧
    { (s.store a bs).advance with mem := s.mem, pc := s.pc } = s := ⟨rfl, rfl⟩

/-- A load of registers followed by the advance of pc writes registers and pc alone. -/
theorem advance_setRegs_frame : (s.setRegs bs).advance.pc = s.pc + 2 ∧
    { (s.setRegs bs).advance with v := s.v, pc := s.pc } = s := by
  simp only [advance, goto, setRegs, nextPc, and_self]

end State

theorem getElem_regBlock (s : State) {x r : Reg} (h : r ≤ x) :
    (regBlock s x)[r.val]'(by rw [length_regBlock]; exact Nat.lt_succ_of_le h) = s.reg r := by
  simp [regBlock]

/-- A block load puts the byte at I + r into Vr, for r up to x. -/
theorem reg_ldRegs_of_le (s : State) {x r : Reg} (h : r ≤ x) :
    (s.setRegs (s.readBytes s.index.toNat (x.val + 1))).advance.reg r = s.readByte (s.index.toNat + r.val) := by
  rw [State.reg_advance, State.reg_setRegs_readBytes, if_pos (Nat.lt_succ_of_le h)]

theorem readByte_stRegs_of_le (s : State) {x r : Reg} (h : r ≤ x) :
    (s.store s.index.toNat (regBlock s x)).advance.readByte (s.index.toNat + r.val) = s.reg r := by
  have inside : r.val < (regBlock s x).length := by
    rw [length_regBlock]
    exact Nat.lt_succ_of_le h
  rw [State.readByte_advance, s.readByte_store_at _ _ inside, getElem_regBlock s h]

/-! ### The statements -/

/-- Settles O26. -/
theorem addIWrapsAt16Bits : Obligations.AddIWrapsAt16Bits := by
  unfold Obligations.AddIWrapsAt16Bits
  intro s x
  refine ⟨(s.setIndex (s.index + zextByte (s.reg x))).advance, rfl, ?_, rfl, rfl⟩
  rw [State.advance_index, State.setIndex_index, BitVec.toNat_add, toNat_zextByte]

/-- Settles O27: the glyph address does not wrap. -/
theorem ldFPointsToGlyph : Obligations.LdFPointsToGlyph := by
  unfold Obligations.LdFPointsToGlyph
  exact fun s x => ⟨(s.setIndex (glyphAddr s x)).advance, rfl, toNat_glyphAddr s x, rfl, rfl⟩

/-- Settles O28: byte k of the store is digit k. -/
theorem ldBStoresDigits : Obligations.LdBStoresDigits := by
  unfold Obligations.LdBStoresDigits
  intro s x h
  have digit : ∀ (k : Nat) (hk : k < 3), ((s.store s.index.toNat (bcdDigits (s.reg x))).advance.readByte
      (s.index.toNat + k)) = (bcdDigits (s.reg x))[k] := fun k hk => s.readByte_store_at _ (bcdDigits (s.reg x)) hk
  have := (s.reg x).isLt
  refine ⟨_, exec_ldB_of_le h x, ?_, ?_, ?_, fun a ha => ?_, s.advance_store_frame _ _⟩
  · have first := digit 0 (by omega)
    rw [Nat.add_zero] at first
    rw [first]
    simp [bcdDigits]
    omega
  · rw [digit 1 (by omega)]
    simp [bcdDigits]
    omega
  · rw [digit 2 (by omega)]
    simp [bcdDigits]
    omega
  · refine s.readByte_store_outside _ _ (ha.imp_right fun above => ?_)
    simp [bcdDigits]
    omega

/-- Settles O29. -/
theorem stRegsStoresBlock : Obligations.StRegsStoresBlock := by
  unfold Obligations.StRegsStoresBlock
  intro s x h
  refine ⟨_, exec_stRegs_of_le h, fun r hr => readByte_stRegs_of_le s hr, fun a ha => ?_, s.advance_store_frame _ _⟩
  refine s.readByte_store_outside _ _ (ha.imp_right fun above => ?_)
  rw [length_regBlock]
  omega

/-- Settles O30. -/
theorem ldRegsLoadsBlock : Obligations.LdRegsLoadsBlock := by
  unfold Obligations.LdRegsLoadsBlock
  intro s x h
  refine ⟨_, exec_ldRegs_of_le h, fun r hr => reg_ldRegs_of_le s hr, fun r hr => ?_, s.advance_setRegs_frame _⟩
  rw [State.reg_advance, State.reg_setRegs_readBytes, if_neg (Nat.not_lt.2 hr)]

/-- Settles O31: the load reads back the bytes of the store. -/
theorem storeThenLoadRestoresRegisters : Obligations.StoreThenLoadRestoresRegisters := by
  unfold Obligations.StoreThenLoadRestoresRegisters
  intro s u x h
  refine ⟨_, exec_stRegs_of_le h, fun index_eq bytes_eq => ?_⟩
  have same_index : u.index = s.index := index_eq
  refine ⟨_, exec_ldRegs_of_le (by rw [same_index]; exact h), fun r hr => ?_⟩
  calc (u.setRegs (u.readBytes u.index.toNat (x.val + 1))).advance.reg r
      = u.readByte (s.index.toNat + r.val) := by rw [reg_ldRegs_of_le u hr, same_index]
    _ = (s.store s.index.toNat (regBlock s x)).advance.readByte (s.index.toNat + r.val) :=
        bytes_eq _ (Nat.le_add_right ..) (Nat.add_le_add_left hr _)
    _ = s.reg r := readByte_stRegs_of_le s hr

/-- Settles O32: the check of each of the four instructions is the one of the `k + 1` bytes at I. -/
theorem dataOutOfBoundsFaults : Obligations.DataOutOfBoundsFaults := by
  unfold Obligations.DataOutOfBoundsFaults
  intro s i k form h
  have raised := outOfBounds_dataAddr_of_gt h
  refine exec_of_raises (r := ⟨.outOfBoundsAccess, max s.index.toNat 0x1000⟩) ?_
  rcases form with ⟨x, y, n, rfl, hn, rfl⟩ | ⟨x, rfl, rfl⟩ | ⟨x, rfl | rfl, rfl⟩
  · rw [Nat.sub_add_cancel hn] at raised
    exact raised
  · exact raised
  · exact raised
  · exact raised

end Sys2Proof.Machine
end

section
/-! PROOFS. The display (file 43 of the spec) and the table of the flags (file 10, section 3): CLS, DRW and VF. First
the cells of a sprite as the statements' `SpriteHits`, then what `State.draw` does, then the statements. -/

namespace Sys2Proof.Machine

open Sys2Proof.Safety

/-! ### The cells of a sprite (R152) -/

theorem landing_clip {py px yy xx : Nat} (hy : yy < 32) (hx : xx < 64) :
    landing .clip py px = some (yy, xx) ↔ yy = py ∧ xx = px := by
  simp only [landing, Option.ite_none_right_eq_some, Option.some.injEq, Prod.mk.injEq]
  omega

theorem landing_wrap {py px yy xx : Nat} : landing .wrap py px = some (yy, xx) ↔ yy = py % 32 ∧ xx = px % 64 := by
  simp only [landing, Option.some.injEq, Prod.mk.injEq, eq_comm]

/-- The cells that DRW Vx, Vy, n toggles. -/
def drawnCells (s : State) (x y : Reg) (n : Fin 16) : List (Nat × Nat) :=
  spriteCells s.params.edgePolicy (s.reg x).toNat (s.reg y).toNat (s.readBytes (dataAddr s) n.val)

/-- A pixel of the grid is toggled exactly if a set sprite bit lands on it. -/
theorem mem_drawnCells {s : State} {x y : Reg} {n : Fin 16} {yy xx : Nat} (hy : yy < 32) (hx : xx < 64) :
    (yy, xx) ∈ drawnCells s x y n ↔ SpriteHits s x y n yy xx := by
  rw [drawnCells, mem_spriteCells, SpriteHits]
  cases s.params.edgePolicy with
  | clip => simp only [landing_clip hy hx, State.length_readBytes, State.getElem_readBytes, exists_prop, dataAddr]
  | wrap => simp only [landing_wrap, State.length_readBytes, State.getElem_readBytes, exists_prop, dataAddr]

theorem nodup_drawnCells (s : State) (x y : Reg) (n : Fin 16) : (drawnCells s x y n).Nodup :=
  nodup_spriteCells _ _ _ _ (by rw [State.length_readBytes]; omega)

theorem drawnCells_on_grid (s : State) (x y : Reg) (n : Fin 16) : ∀ c ∈ drawnCells s x y n, c.1 < 32 ∧ c.2 < 64 :=
  fun _ => spriteCells_on_grid

/-- The collision of the drawing is the collision of the statements. -/
theorem collision_drawnCells {s : State} {x y : Reg} {n : Fin 16} :
    (composite s.fb (drawnCells s x y n)).collision = true ↔ SpriteCollides s x y n := by
  rw [composite_collision (nodup_drawnCells s x y n) (drawnCells_on_grid s x y n), SpriteCollides]
  constructor
  · rintro ⟨⟨yy, xx⟩, mem, on⟩
    obtain ⟨hy, hx⟩ := drawnCells_on_grid s x y n _ mem
    exact ⟨yy, hy, xx, hx, (mem_drawnCells hy hx).1 mem, on⟩
  · rintro ⟨yy, hy, xx, hx, hits, on⟩
    exact ⟨(yy, xx), (mem_drawnCells hy hx).2 hits, on⟩

/-! ### DRW with its sprite in bounds -/

/-- The state in which DRW completes. -/
def drawn (s : State) (x y : Reg) (n : Fin 16) : State := s.draw x y (s.readBytes (dataAddr s) n.val)

theorem exec_drw_of_le {s : State} {n : Fin 16} (h : n.val = 0 ∨ s.index.toNat + n.val ≤ 0x1000) (x y : Reg) :
    exec (.drw x y n) s = .next (drawn s x y n) :=
  exec_of_completes (i := .drw x y n) (outOfBounds_eq_none.2 h)

section

variable (s : State) (x y : Reg) (n : Fin 16)

theorem fb_drawn : (drawn s x y n).fb = (composite s.fb (drawnCells s x y n)).fb := rfl

theorem pixelOn_drawn (yy xx : Nat) :
    pixelOn (drawn s x y n).fb yy xx = (pixelOn s.fb yy xx ^^ decide ((yy, xx) ∈ drawnCells s x y n)) := by
  rw [fb_drawn, pixelOn_composite (nodup_drawnCells s x y n) (drawnCells_on_grid s x y n)]

theorem flag_drawn : (drawn s x y n).reg 15 = flagByte (composite s.fb (drawnCells s x y n)).collision := by
  simp only [drawn, State.draw, State.reg_advance, State.reg_setFlag, if_pos, drawnCells]

theorem flag_drawn_of_collides {s : State} {x y : Reg} {n : Fin 16} (h : SpriteCollides s x y n) :
    (drawn s x y n).reg 15 = 1 := by
  rw [flag_drawn, collision_drawnCells.2 h]
  rfl

theorem flag_drawn_of_not_collides {s : State} {x y : Reg} {n : Fin 16} (h : ¬ SpriteCollides s x y n) :
    (drawn s x y n).reg 15 = 0 := by
  rw [← collision_drawnCells, Bool.not_eq_true] at h
  rw [flag_drawn, h]
  rfl

/-- DRW writes VF, the display and pc alone. -/
theorem drawn_frame : (∀ r, r ≠ 15 → (drawn s x y n).reg r = s.reg r) ∧ (drawn s x y n).dirty = true ∧
    (drawn s x y n).pc = s.pc + 2 ∧
    { drawn s x y n with v := s.v, fb := s.fb, dirty := s.dirty, pc := s.pc } = s :=
  ⟨fun _ h => s.reg_draw_of_ne x y _ h, rfl, rfl, rfl⟩

/-- With the coordinates in other registers than VF, a second DRW draws the same cells. -/
theorem drawnCells_drawn {x y : Reg} (hx : x ≠ 15) (hy : y ≠ 15) :
    drawnCells (drawn s x y n) x y n = drawnCells s x y n := by
  have reg_x : (drawn s x y n).reg x = s.reg x := s.reg_draw_of_ne x y _ hx
  have reg_y : (drawn s x y n).reg y = s.reg y := s.reg_draw_of_ne x y _ hy
  rw [drawnCells, reg_x, reg_y]
  rfl

end

/-! ### The statements -/

/-- Settles O33. -/
theorem clsClearsFramebuffer : Obligations.ClsClearsFramebuffer := by
  unfold Obligations.ClsClearsFramebuffer
  exact fun s => ⟨(s.present blankFb).advance, rfl, fun yy _ xx _ => pixelOn_blankFb yy xx, rfl, rfl, rfl⟩

/-- Settles O34: the cells of the sprite are toggled once each, so every pixel is compared with the one before. -/
theorem drwXorsSprite : Obligations.DrwXorsSprite := by
  unfold Obligations.DrwXorsSprite
  intro s x y n h
  refine ⟨_, exec_drw_of_le h x y, fun yy hy xx hx => ⟨fun hits => ?_, fun misses => ?_⟩, flag_drawn_of_collides,
    flag_drawn_of_not_collides, drawn_frame s x y n⟩
  · rw [pixelOn_drawn, decide_eq_true ((mem_drawnCells hy hx).2 hits), Bool.xor_true]
  · rw [pixelOn_drawn, decide_eq_false (mt (mem_drawnCells hy hx).1 misses), Bool.xor_false]

/-- Settles O35: the second DRW draws the same cells, and a pixel that the first turned on is one of them. -/
theorem drwTwiceRestoresFramebuffer : Obligations.DrwTwiceRestoresFramebuffer := by
  unfold Obligations.DrwTwiceRestoresFramebuffer
  intro s x y n hx hy h
  have same_cells := drawnCells_drawn s n hx hy
  refine ⟨_, _, exec_drw_of_le h x y, exec_drw_of_le (s := drawn s x y n) h x y, ?_, ?_⟩
  · rw [fb_drawn, same_cells, fb_drawn, composite_twice (nodup_drawnCells s x y n) (drawnCells_on_grid s x y n)]
  · rintro ⟨yy, hy, xx, hx, off, on⟩
    have toggled : (yy, xx) ∈ drawnCells s x y n := by simpa [pixelOn_drawn, off] using on
    refine flag_drawn_of_collides ⟨yy, hy, xx, hx, (mem_drawnCells hy hx).1 ?_, on⟩
    rw [same_cells]
    exact toggled

/-- Settles O24: the five ALU writers end in `loadRegFlag`, DRW in `drawn`, and no other instruction has VF among its
destinations unless it is named. -/
theorem flagsByTable : Obligations.FlagsByTable := by
  unfold Obligations.FlagsByTable
  refine ⟨fun s x y => ⟨s.loadRegFlag x _ _, s.loadRegFlag x _ _, s.loadRegFlag x _ _, s.loadRegFlag x _ _,
    s.loadRegFlag x _ _, rfl, ?_, rfl, ?_, rfl, ?_, rfl, ?_, rfl, ?_⟩, fun s x y n h => ?_, fun i s t h ha => ?_⟩
  · simp only [State.reg_loadRegFlag_flag, flagByte, addFlag, decide_eq_true_eq]
  · simp only [State.reg_loadRegFlag_flag, flagByte, greaterFlag, decide_eq_true_eq]
  · rw [State.reg_loadRegFlag_flag, flagByte, shiftRightFlag]
  · simp only [State.reg_loadRegFlag_flag, flagByte, greaterFlag, decide_eq_true_eq]
  · rw [State.reg_loadRegFlag_flag, flagByte, shiftLeftFlag]
  · exact ⟨_, exec_drw_of_le h x y, flag_drawn_of_collides, flag_drawn_of_not_collides⟩
  · exact registerFrame i s t 15 h ha

end Sys2Proof.Machine
end

section
/-! PROOFS. The keys (file 44 of the spec): SKP, SKNP and LD Vx, K. First the words of the two skips, then which key
`selectKey` answers, then the statements. -/

namespace Sys2Proof.Machine

open Sys2Proof.Safety

/-! ### The words and the check of the key skips (R161, R162) -/

theorem encode_skp (x : Reg) : encode (.skp x) = BitVec.ofNat 16 (0xE09E + 256 * x.val) := by
  have number : 0xE * 4096 + x.val * 256 + (0x9E#8).toNat = 0xE09E + 256 * x.val := by
    rw [show (0x9E#8).toNat = 0x9E from rfl]
    omega
  exact congrArg (BitVec.ofNat 16) number

theorem encode_sknp (x : Reg) : encode (.sknp x) = BitVec.ofNat 16 (0xE0A1 + 256 * x.val) := by
  have number : 0xE * 4096 + x.val * 256 + (0xA1#8).toNat = 0xE0A1 + 256 * x.val := by
    rw [show (0xA1#8).toNat = 0xA1 from rfl]
    omega
  exact congrArg (BitVec.ofNat 16) number

/-! ### Which key is selected (R166) -/

theorem pairwise_pressedKeys (keys : BitVec 16) : (pressedKeys keys).Pairwise (· < ·) :=
  (List.pairwise_lt_finRange 16).filter _

/-- Under `lowest` the first of a rising list is selected. -/
theorem selectKey_lowest_le {d : Nat} {ks : List Reg} {k : Reg} (sorted : ks.Pairwise (· < ·))
    (h : selectKey .lowest d ks = some k) : ∀ j ∈ ks, k ≤ j := by
  match ks with
  | [] => simp
  | [k'] => simp_all [selectKey]
  | k' :: k'' :: ks =>
    obtain rfl : k' = k := Option.some.inj h
    simp only [List.forall_mem_cons (a := k')]
    exact ⟨le_rfl, fun j hj => (List.rel_of_pairwise_cons sorted hj).le⟩

/-- Under `highest` the last of a rising list is selected. -/
theorem le_selectKey_highest {d : Nat} {ks : List Reg} {k : Reg} (sorted : ks.Pairwise (· < ·))
    (h : selectKey .highest d ks = some k) : ∀ j ∈ ks, j ≤ k := by
  have last : ks.getLast? = some k := by
    match ks with
    | [] | [_] => exact h
    | k' :: k'' :: ks => rw [List.getLast?_cons_cons]; exact h
  obtain ⟨front, rfl⟩ := List.getLast?_eq_some_iff.1 last
  obtain ⟨-, -, below⟩ := List.pairwise_append.1 sorted
  intro j hj
  rcases List.mem_append.1 hj with hj | hj
  · exact (below j hj k (List.mem_singleton_self k)).le
  · exact (List.mem_singleton.1 hj).le

/-- Under `any` the draw is an index into the pressed keys. -/
theorem selectKey_any_of_lt {d : Nat} {ks : List Reg} (h : d < ks.length) : selectKey .any d ks = some ks[d] := by
  match ks with
  | [k'] =>
    obtain rfl : d = 0 := by simpa using h
    rfl
  | k' :: k'' :: ks =>
    have := Nat.mod_eq_of_lt h
    simp only [List.length_cons] at this
    rw [selectKey, this, getElem?_pos]

theorem toNat_keyByte (k : Reg) : (keyByte k).toNat = k.val := by
  rw [keyByte, BitVec.toNat_ofNat]
  omega

/-! ### The statements -/

/-- Settles O36: with a key that exists both skips complete, SKNP with the negated condition. -/
theorem keySkipsTestTheKey : Obligations.KeySkipsTestTheKey := by
  unfold Obligations.KeySkipsTestTheKey
  intro s x h
  have exists_key : ¬ 15 < (s.reg x).toNat := Nat.not_lt.2 h
  refine ⟨⟨_, exec_of_completes (i := .skp x) (if_neg exists_key), s.skipIf_pc_eq_ite _, s.skipIf_frame _⟩,
    ⟨_, exec_of_completes (i := .sknp x) (if_neg exists_key), ?_, s.skipIf_frame _⟩⟩
  simp only [completed, State.skipIf_pc_eq_ite, Bool.not_eq_true', ← Bool.not_eq_true, ite_not]

/-- Settles O37: the check of both skips. -/
theorem keyIndexAboveFifteenFaults : Obligations.KeyIndexAboveFifteenFaults := by
  unfold Obligations.KeyIndexAboveFifteenFaults
  intro s x h
  rw [← encode_skp, ← encode_sknp]
  exact ⟨exec_of_raises (i := .skp x) (if_pos h), exec_of_raises (i := .sknp x) (if_pos h)⟩

/-- Settles O41: the pressed keys are listed in rising order, and one of them is selected. -/
theorem awaitKeyStoresPressedKey : Obligations.AwaitKeyStoresPressedKey := by
  unfold Obligations.AwaitKeyStoresPressedKey
  refine ⟨fun s x h => by rw [exec_ldVxK, State.awaitKey_of_no_key h], fun s x h => ?_⟩
  obtain ⟨k, selected, stored⟩ := State.awaitKey_of_key h x
  obtain ⟨others, -, -⟩ := s.useDraw.loadReg_frame x (keyByte k)
  have listed : ∀ j (hj : j < 16), s.keys.getLsbD j = true → (⟨j, hj⟩ : Reg) ∈ pressedKeys s.keys :=
    fun _ _ pressed => mem_pressedKeys.2 pressed
  have sorted := pairwise_pressedKeys s.keys
  refine ⟨s.useDraw.loadReg x (keyByte k), k.val, by rw [exec_ldVxK, stored], k.isLt,
    mem_pressedKeys.1 (selectKey_mem selected), ?_, fun lowest j hj pressed => ?_, fun highest j hj pressed => ?_,
    others, rfl, rfl⟩
  · rw [State.reg_loadReg_self, toNat_keyByte]
  · rw [lowest] at selected
    exact selectKey_lowest_le sorted selected _ (listed j hj pressed)
  · rw [highest] at selected
    exact le_selectKey_highest sorted selected _ (listed j hj pressed)

/-- Settles O42: the draw that picks a pressed key is its index among the pressed keys. -/
theorem anyPressedKeyAdmitted : Obligations.AnyPressedKeyAdmitted := by
  unfold Obligations.AnyPressedKeyAdmitted
  intro keys k
  rw [← mem_pressedKeys]
  constructor
  · rintro ⟨d, selected⟩
    exact selectKey_mem selected
  · intro mem
    obtain ⟨d, hd, rfl⟩ := List.mem_iff_getElem.1 mem
    exact ⟨d, selectKey_any_of_lt hd⟩

end Sys2Proof.Machine
end

section
/-! PROOFS. One step of the machine (files 40, section 1, 60 and 70 of the spec): the STEP event, the decode fault, and
the events RESET, LOAD, TICK and FRAME_ACK. First what `step` runs for each next event and what each event keeps, then
the statements. -/

namespace Sys2Proof.Machine

open Sys2Proof.Safety

/-! ### What a step runs (R59, R184 to R190) -/

/-- A run of one step and more, the first of which answers a next state. -/
theorem core_run_succ {s t : State} (h : step s = .next t) (n : Nat) : core.run (n + 1) s = core.run n t := by
  have first : core.step s = .next t := h
  simp only [Host.Core.run, first]

theorem step_of_nextEvent {s : State} {e : Event} (h : nextEvent s = e) : step s = runEvent e s.dequeue := by
  rw [step, h]

theorem stepEvent_total (s : State) : ∃ t, s.stepEvent = .next t := by
  rcases stepEvent_cases s with ⟨-, ran⟩ | ⟨-, -, ran⟩ | ⟨w, -, -, ⟨e, -, ran⟩ | ⟨i, -, ran⟩⟩
  · exact ⟨_, ran⟩
  · exact ⟨_, ran⟩
  · exact ⟨_, ran⟩
  · rw [ran]
    exact exec_total i s.begin

/-- A STEP in the faulted state (R174). -/
theorem stepEvent_of_fault {s : State} {f : FaultRecord} (h : s.fault = some f) : s.stepEvent = .next s := by
  rw [State.stepEvent, h]

/-- A STEP whose fetch fails (R54). -/
theorem stepEvent_of_fetch_error {s : State} {r : Raised} (hf : s.fault = none) (hw : s.fetchWord = .error r) :
    s.stepEvent = .next (s.begin.takeFault r 0) := by
  simp only [State.stepEvent, hf, hw]

/-- A STEP that fetches a word that is no instruction (R79). -/
theorem stepEvent_of_reject {s : State} {w : Word} {e : DecodeReject} (hf : s.fault = none) (hw : s.fetchWord = .ok w)
    (he : decode w = .error e) : s.stepEvent = .next (s.begin.takeFault ⟨.unknownOpcode, w.toNat⟩ w) := by
  simp only [State.stepEvent, hf, hw, he]

/-- Only SYS among the instructions raises UnknownOpcode (R171). -/
theorem eq_sys_of_raises_unknownOpcode {i : Instr} {s : State} {r : Raised} (h : raisesIn i s = some r)
    (hr : r.cause = .unknownOpcode) : ∃ nnn, i = .sys nnn := by
  cases i
  case sys nnn => exact ⟨nnn, rfl⟩
  all_goals
    simp only [raisesIn, Option.ite_none_right_eq_some, Option.some.injEq, reduceCtorEq] at h
  all_goals
    obtain ⟨-, rfl⟩ := h
    cases hr

/-! ### What each event keeps -/

/-- No event but RESET changes a latch that holds a record (R174, R175). -/
theorem fault_runEvent {e : Event} {s t : State} {f : FaultRecord} (hf : s.fault = some f) (not_reset : e ≠ .reset)
    (h : runEvent e s = .next t) : t.fault = some f := by
  cases e with
  | reset => exact absurd rfl not_reset
  | step =>
    rw [runEvent, stepEvent_of_fault hf] at h
    cases h
    exact hf
  | load bs =>
    rw [runEvent] at h
    rcases loadEvent_cases s bs with ⟨-, ran⟩ | ⟨-, -, ran⟩ | ⟨-, -, ran⟩ <;> rw [ran] at h <;> cases h
    · exact hf
    · rw [s.writeBytes_eq]
      exact hf
  | tick | keys | frameAck =>
    cases h
    exact hf

/-- No event changes the parameters (R6). -/
theorem params_runEvent {e : Event} {s t : State} (h : runEvent e s = .next t) : t.params = s.params := by
  cases e with
  | step =>
    rw [runEvent] at h
    rcases stepEvent_cases s with ⟨-, ran⟩ | ⟨-, -, ran⟩ | ⟨w, -, -, ⟨e, -, ran⟩ | ⟨i, -, ran⟩⟩ <;> rw [ran] at h
    case inr.inr.inr =>
      rcases exec_cases h with ⟨r, -, rfl⟩ | ⟨-, rfl⟩
      · rfl
      · obtain ⟨-, -, same_params, -⟩ := completed_frame i s.begin
        exact same_params
    all_goals
      cases h
      rfl
  | load bs =>
    rw [runEvent] at h
    rcases loadEvent_cases s bs with ⟨-, ran⟩ | ⟨-, -, ran⟩ | ⟨-, -, ran⟩ <;> rw [ran] at h <;> cases h
    · rfl
    · exact s.writeBytes_params _ bs
  | reset | tick | keys | frameAck =>
    cases h
    rfl

/-! ### LOAD (R184, R178) -/

theorem loadEvent_of_closed {s : State} (h : s.loadOpen = false) (bs : List Byte) :
    s.loadEvent bs = .refused .loadOutsideContract := by
  simp only [State.loadEvent, h, Bool.false_eq_true, if_false]

theorem loadEvent_of_long {s : State} {bs : List Byte} (h : s.loadOpen = true) (long : romMax < bs.length) :
    s.loadEvent bs = .next { s with loadRefusal := some bs.length, loadOpen := false } := by
  simp only [State.loadEvent, h, long, if_true]

/-- A ROM that fits is a block write at 0x200. -/
theorem loadEvent_of_short {s : State} {bs : List Byte} (h : s.loadOpen = true) (short : bs.length ≤ romMax) :
    s.loadEvent bs = .next { s.store 0x200 bs with loadOpen := false } := by
  rw [State.store, ← State.writeBytes_eq]
  simp only [State.loadEvent, h, Nat.not_lt.2 short, if_true, if_false]

/-- The LOAD bit of a state that is inside the contract is the only thing `loadOpen := true` puts back. -/
theorem State.withLoadOpen_eq {s : State} (h : s.loadOpen = true) : { s with loadOpen := true } = s := by
  rw [← h]

/-! ### Reset (R200) -/

theorem resetByte_font (p : Config.Params) {k : Nat} (h : k < 80) :
    resetByte p (p.fontBase.val + k) = p.fontData[k] := by
  rw [resetByte, dif_pos ⟨Nat.le_add_right .., Nat.add_lt_add_left h _⟩]
  simp only [Nat.add_sub_cancel_left]

theorem resetByte_outside (p : Config.Params) {a : Nat} (h : a < p.fontBase.val ∨ p.fontBase.val + 80 ≤ a) :
    resetByte p a = 0 := by
  rw [resetByte, dif_neg (by omega)]

/-- The memory after RESET holds nothing but the reset bytes. -/
theorem readByte_resetEvent (s : State) (a : Nat) : s.resetEvent.readByte a = resetByte s.params a := rfl

/-! ### A program that has ended (R192) -/

/-- The self-jump of an ended program runs to the state it starts from. -/
theorem exec_jp_self {s : State} {nnn : Addr} (h : s.pc.toNat = nnn.toNat) : exec (.jp nnn) s = .next s := by
  have same_pc : zextAddr nnn = s.pc := BitVec.eq_of_toNat_eq (by rw [toNat_zextAddr, h])
  show Host.Outcome.next (s.goto (zextAddr nnn)) = _
  rw [same_pc]
  rfl

/-! ### The timers after TICK (R186) -/

theorem toNat_countDown (b : Byte) : (if b = 0 then 0 else b - 1).toNat = b.toNat - 1 := by
  split
  · rw [‹b = 0›]
    rfl
  · have nonzero : b.toNat ≠ 0 := fun h => ‹¬ b = 0› (BitVec.eq_of_toNat_eq h)
    have := b.isLt
    rw [BitVec.toNat_sub, show (1 : Byte).toNat = 1 from rfl]
    omega

/-! ### The statements -/

/-- Settles O5. -/
theorem stepRunsDecodedInstruction : Obligations.StepRunsDecodedInstruction := by
  unfold Obligations.StepRunsDecodedInstruction
  intro s i hf next_step hpc hi
  rw [step_of_nextEvent next_step]
  exact stepEvent_exec (s := s.dequeue) hf (State.fetchWord_ok.2 ⟨hpc, rfl⟩) hi

/-- Settles O6: the lowest invalid address is 0x1000, or pc where pc is above it. -/
theorem fetchOutOfBoundsFaults : Obligations.FetchOutOfBoundsFaults := by
  unfold Obligations.FetchOutOfBoundsFaults
  intro s hf next_step hpc
  have failed : s.dequeue.fetchWord = .error ⟨.outOfBoundsAccess, max s.pc.toNat 0x1000⟩ :=
    State.fetchWord_error.2 ⟨hpc, rfl⟩
  have info : max s.pc.toNat 0x1000 = if s.pc.toNat = 0xFFF then 0x1000 else s.pc.toNat := by
    split <;> omega
  rw [step_of_nextEvent next_step, runEvent, stepEvent_of_fetch_error (s := s.dequeue) hf failed, info]
  rfl

/-- Settles O7: a rejected word and SYS latch the same record, and no other instruction raises UnknownOpcode. -/
theorem unknownWordsFault : Obligations.UnknownWordsFault := by
  unfold Obligations.UnknownWordsFault
  rintro s w hf next_step hpc word_eq
  have fetched : s.dequeue.fetchWord = .ok w := State.fetchWord_ok.2 ⟨hpc, word_eq.symm⟩
  rw [step_of_nextEvent next_step, unknownWord_iff]
  cases decoded : decode w with
  | error e =>
    have ran := stepEvent_of_reject (s := s.dequeue) hf fetched decoded
    exact ⟨fun _ => ran, fun known => absurd (.inl ⟨e, rfl⟩) known⟩
  | ok i =>
    have ran := stepEvent_exec (s := s.dequeue) hf fetched decoded
    obtain ⟨-, encoded⟩ := isWordOf_of_decode decoded
    refine ⟨fun unknown => ?_, fun known t f ht latched unknown_cause => known (.inr ?_)⟩
    · obtain ⟨nnn, is_sys⟩ := unknown.resolve_left (by simp)
      obtain rfl := Except.ok.inj is_sys
      subst encoded
      rw [toNat_encode_sys]
      exact ran.trans (exec_of_raises (i := .sys nnn) (s := s.dequeue.begin) (r := ⟨.unknownOpcode, nnn.toNat⟩) rfl)
    · rw [runEvent, ran] at ht
      rcases exec_cases ht with ⟨r, raised, rfl⟩ | ⟨-, rfl⟩
      · obtain rfl := Option.some.inj latched
        obtain ⟨nnn, rfl⟩ := eq_sys_of_raises_unknownOpcode raised unknown_cause
        exact ⟨nnn, rfl⟩
      · obtain ⟨same_fault, -⟩ := completed_frame i s.dequeue.begin
        exact nomatch (same_fault.trans hf).symm.trans latched

/-- Settles O8. -/
theorem faultLatchIsSticky : Obligations.FaultLatchIsSticky := by
  unfold Obligations.FaultLatchIsSticky
  intro s f hf
  refine ⟨fun next_step => ?_, fun t not_reset h => fault_runEvent (s := s.dequeue) hf not_reset h⟩
  rw [step_of_nextEvent next_step]
  exact stepEvent_of_fault hf

/-- Settles O43. -/
theorem tickCountsDownBothTimers : Obligations.TickCountsDownBothTimers := by
  unfold Obligations.TickCountsDownBothTimers
  intro s next_tick
  exact ⟨s.dequeue.tick, step_of_nextEvent next_tick, toNat_countDown s.dt, toNat_countDown s.st, rfl⟩

/-- Settles O44, by induction on the number of TICK events. -/
theorem ticksSaturateAtZero : Obligations.TicksSaturateAtZero := by
  unfold Obligations.TicksSaturateAtZero
  intro n
  induction n with
  | zero => exact fun s rest queue => ⟨s, rfl, rfl, rfl, queue, rfl⟩
  | succ n ih =>
    intro s rest queue
    have next_tick : nextEvent s = .tick := by rw [nextEvent, queue]; rfl
    have ran : step s = .next s.dequeue.tick := step_of_nextEvent next_tick
    obtain ⟨t, run, dt_eq, st_eq, events_eq, frame⟩ := ih s.dequeue.tick rest (by
      rw [State.tick_events, State.dequeue_events, queue]; rfl)
    have first_dt : s.dequeue.tick.dt.toNat = s.dt.toNat - 1 := toNat_countDown s.dt
    have first_st : s.dequeue.tick.st.toNat = s.st.toNat - 1 := toNat_countDown s.st
    refine ⟨t, ?_, by omega, by omega, events_eq, ?_⟩
    · exact (core_run_succ ran n).trans run
    · exact congrArg (fun u : State => { u with dt := s.dt, st := s.st, events := s.events }) frame

/-- Settles O46. -/
theorem frameAckClearsDirty : Obligations.FrameAckClearsDirty := by
  unfold Obligations.FrameAckClearsDirty
  exact fun s next_ack => ⟨s.dequeue.frameAck, step_of_nextEvent next_ack, rfl, rfl⟩

/-- Settles O47: a ROM that fits is a block write at 0x200, and one that does not changes the report alone. -/
theorem loadPlacesRom : Obligations.LoadPlacesRom := by
  unfold Obligations.LoadPlacesRom
  intro s bs next_load contract
  rw [step_of_nextEvent next_load, runEvent]
  refine ⟨fun short => ?_, fun long => ?_⟩
  · refine ⟨_, loadEvent_of_short (s := s.dequeue) contract short, fun k hk => ?_, fun a ha => ?_, ?_⟩
    · exact s.dequeue.readByte_store_at 0x200 bs hk
    · exact s.dequeue.readByte_store_outside 0x200 bs ha
    · exact State.withLoadOpen_eq contract
  · exact ⟨_, loadEvent_of_long (s := s.dequeue) contract long, rfl, fun _ => rfl, State.withLoadOpen_eq contract⟩

/-- Settles O48. -/
theorem loadOutsideContractRefused : Obligations.LoadOutsideContractRefused := by
  unfold Obligations.LoadOutsideContractRefused
  intro s bs next_load closed
  rw [step_of_nextEvent next_load]
  exact loadEvent_of_closed (s := s.dequeue) closed bs

/-- Settles O49: RESET rebuilds the state from the parameters, the draw counter and the further events. -/
theorem resetLeavesListedValues : Obligations.ResetLeavesListedValues := by
  unfold Obligations.ResetLeavesListedValues
  intro s next_reset
  refine ⟨s.dequeue.resetEvent, step_of_nextEvent next_reset, fun k hk => ?_, fun a ha => ?_, rfl, rfl, fun r => ?_,
    rfl, rfl, rfl, rfl, fun yy _ xx _ => pixelOn_blankFb yy xx, rfl, rfl, rfl, rfl, rfl⟩
  · rw [readByte_resetEvent, State.dequeue_params, resetByte_font _ hk]
  · rw [readByte_resetEvent, State.dequeue_params, resetByte_outside _ ha]
  · exact Vector.getElem_replicate r.isLt

/-- Settles O56. -/
theorem parametersAreFixed : Obligations.ParametersAreFixed := by
  unfold Obligations.ParametersAreFixed
  exact fun s t h => params_runEvent (s := s.dequeue) h

/-- Settles O59, event by event. -/
theorem onlyLoadOutsideContractStops : Obligations.OnlyLoadOutsideContractStops := by
  unfold Obligations.OnlyLoadOutsideContractStops
  intro s
  cases h : nextEvent s with
  | load bs =>
    rw [step_of_nextEvent h, runEvent]
    rcases loadEvent_cases s.dequeue bs with ⟨closed, ran⟩ | ⟨-, -, ran⟩ | ⟨-, -, ran⟩
    · exact .inr ⟨closed, ⟨bs, rfl⟩, ran⟩
    · exact .inl ⟨_, ran⟩
    · exact .inl ⟨_, ran⟩
  | step =>
    rw [step_of_nextEvent h]
    exact .inl (stepEvent_total s.dequeue)
  | reset | tick | keys | frameAck => exact .inl ⟨_, step_of_nextEvent h⟩

/-- Settles O60: the step runs the self-jump, which leads back to the same state. -/
theorem endedProgramStaysParked : Obligations.EndedProgramStaysParked := by
  unfold Obligations.EndedProgramStaysParked
  intro s ended closed next_step
  refine ⟨?_, ended⟩
  obtain ⟨hf, hpc, nnn, self, word⟩ := ended
  have decoded : decode (wordOfBytes (s.readByte s.pc.toNat) (s.readByte (s.pc.toNat + 1))) = .ok (.jp nnn) := by
    rw [word]
    exact encodedAs_jp nnn
  rw [stepRunsDecodedInstruction s (.jp nnn) hf next_step hpc decoded, ← closed]
  exact exec_jp_self self

end Sys2Proof.Machine
end

section
/-! PROOFS. The invariant (file 10, section 12 of the spec). First that a fault, a completed instruction and each event
keep it, then the statements. -/

namespace Sys2Proof.Machine

open Sys2Proof.Safety

/-! ### What the invariant looks at -/

/-- The invariant looks at memory, pc, the call stack, the latch, the parameters and the LOAD bit alone. -/
theorem inv_congr {s t : State} (hs : Inv s)
    (h : (t.params, t.mem, t.pc, t.stack, t.sp, t.fault, t.loadOpen) =
      (s.params, s.mem, s.pc, s.stack, s.sp, s.fault, s.loadOpen)) : Inv t := by
  simp only [Prod.mk.injEq] at h
  obtain ⟨params, mem, pc, stack, sp, fault, loadOpen⟩ := h
  refine ⟨by rw [params, mem]; exact hs.mem_wf, by rw [pc]; exact hs.pc_le, ?_, fun f hf => ?_⟩
  · rw [stack, sp]
    exact hs.stack_le
  · have latch := hs.latch_ok f (fault ▸ hf)
    exact ⟨pc ▸ latch.pc0_eq, latch.cause_ne, latch.info_le, loadOpen ▸ latch.load_off⟩

/-- The fault entry keeps the invariant, for a cause and a recorded value that a STEP may raise. -/
theorem inv_takeFault {s : State} {r : Raised} (hs : Inv s) (closed : s.loadOpen = false)
    (hr : r.cause ≠ .romTooLarge ∧ r.info ≤ 0xFFFF) (w : Word) : Inv (s.takeFault r w) := by
  refine ⟨hs.mem_wf, hs.pc_le, hs.stack_le, fun f hf => ?_⟩
  obtain rfl := Option.some.inj hf
  exact ⟨rfl, hr.1, hr.2, closed⟩

/-- Closing the LOAD contract keeps the invariant: whatever is latched, it stays truthful. -/
theorem inv_begin {s : State} (hs : Inv s) : Inv s.begin := by
  refine ⟨hs.mem_wf, hs.pc_le, hs.stack_le, fun f hf => ?_⟩
  have latch := hs.latch_ok f hf
  exact ⟨latch.pc0_eq, latch.cause_ne, latch.info_le, rfl⟩

theorem inv_resetWith (p : Config.Params) (draws : Nat) (events : List Event) :
    Inv (State.resetWith p draws events) :=
  ⟨Memory.wf_nil p, (by decide : (0x200 : Word).toNat ≤ 0x10FE), fun _ hk => absurd hk (Nat.not_lt_zero _),
    fun _ hf => nomatch hf⟩

/-! ### An instruction keeps the invariant -/

/-- What an instruction's own check raises is a cause of a STEP with a value in its range (R171). -/
theorem raised_in_range {i : Instr} {s : State} {r : Raised} (h : raisesIn i s = some r) :
    r.cause ≠ .romTooLarge ∧ r.info ≤ 0xFFFF := by
  have index_lt := s.index.isLt
  cases i
  case sys nnn =>
    obtain rfl := Option.some.inj h
    have := nnn.isLt
    exact ⟨by simp, by simp only; omega⟩
  all_goals
    simp only [raisesIn, Option.ite_none_right_eq_some, Option.some.injEq, reduceCtorEq] at h
  case call | ret =>
    obtain ⟨-, rfl⟩ := h
    exact ⟨by simp, by simp⟩
  case drw | ldB | stRegs | ldRegs =>
    obtain ⟨-, rfl⟩ := h
    exact ⟨by simp, by simp only; omega⟩
  case skp x | sknp x =>
    obtain ⟨-, rfl⟩ := h
    have := (s.reg x).isLt
    exact ⟨by simp, by simp only; omega⟩

/-- Memory stays canonical: the two stores pass their bounds check, and no other instruction writes it. -/
theorem wf_completed {i : Instr} {s : State} (wf : Memory.wf s.params s.mem) (h : raisesIn i s = none) :
    Memory.wf s.params (completed i s).mem := by
  cases i with
  | ldB x =>
    have bounds : dataAddr s + 3 ≤ 0x1000 := (outOfBounds_eq_none.1 h).resolve_left (by omega)
    exact State.wf_writeBytes wf bounds
  | stRegs x =>
    have bounds : dataAddr s + (x.val + 1) ≤ 0x1000 := (outOfBounds_eq_none.1 h).resolve_left (by omega)
    exact State.wf_writeBytes wf (by rw [length_regBlock]; exact bounds)
  | ldVxK x =>
    rw [(regsOnly_ldVxK s x).keeps State.mem fun _ _ _ => rfl]
    exact wf
  | ldRegs x =>
    rw [(regsOnly_ldRegs s x).keeps State.mem fun _ _ _ => rfl]
    exact wf
  | _ => exact wf

/-- The next address, and the one after it, of an instruction that was fetched. -/
theorem toNat_pc_add {s : State} (h : s.pc.toNat ≤ 0xFFE) :
    (s.pc + 2).toNat = s.pc.toNat + 2 ∧ (s.pc + 4).toNat = s.pc.toNat + 4 := by
  rw [BitVec.toNat_add, BitVec.toNat_add, show (2 : Word).toNat = 2 from rfl, show (4 : Word).toNat = 4 from rfl]
  omega

/-- The pc table keeps the bound of R41: the largest value is the one JP V0 can reach. -/
theorem pcAfter_le {i : Instr} {s : State} (hpc : s.pc.toNat ≤ 0xFFE)
    (stack_le : ∀ k : Fin 16, k.val < s.sp.val → s.stack[k.val].toNat ≤ 0x1000) (h : raisesIn i s = none) :
    (pcAfter i s).toNat ≤ 0x10FE := by
  obtain ⟨next, skip⟩ := toNat_pc_add hpc
  cases i with
  | jp nnn | call nnn =>
    have := nnn.isLt
    rw [pcAfter, ← zextAddr_eq_ofNat, toNat_zextAddr]
    omega
  | jpV0 nnn =>
    have := nnn.isLt
    have := (s.reg 0).isLt
    rw [pcAfter, ← jumpOffset_eq_ofNat, toNat_jumpOffset]
    omega
  | ret =>
    have nonempty : s.sp.val ≠ 0 := fun empty => by simp [raisesIn, empty] at h
    have entry := stack_le ⟨s.sp.val - 1, by omega⟩ (by simp only; omega)
    rw [pcAfter, getElem?_pos _ _ (by omega), Option.getD_some]
    simp only at entry
    omega
  | seImm | sneImm | seReg | sneReg | skp | sknp | ldVxK =>
    simp only [pcAfter]
    split <;> omega
  | _ =>
    simp only [pcAfter]
    omega

/-- The live return addresses: CALL adds pc0 + 2, RET takes one away, and no other instruction touches them. -/
theorem stack_le_completed {i : Instr} {s : State} (hpc : s.pc.toNat ≤ 0xFFE)
    (stack_le : ∀ k : Fin 16, k.val < s.sp.val → s.stack[k.val].toNat ≤ 0x1000) (k : Fin 16)
    (hk : k.val < (completed i s).sp.val) : (completed i s).stack[k.val].toNat ≤ 0x1000 := by
  obtain ⟨next, -⟩ := toNat_pc_add hpc
  by_cases call : ∃ nnn, i = .call nnn
  · obtain ⟨nnn, rfl⟩ := call
    have below : k.val < min (s.sp.val + 1) 16 := hk
    show (s.stack.setIfInBounds s.sp.val s.nextPc)[k.val].toNat ≤ 0x1000
    rw [Vector.getElem_setIfInBounds]
    split
    · rw [State.nextPc, next]
      omega
    · exact stack_le k (by omega)
  · have same_stack := (stack_completed i s).resolve_right call
    have sp_le : (completed i s).sp.val ≤ s.sp.val := by
      rcases sp_completed i s with same_sp | is_call | rfl
      · rw [same_sp]
      · exact absurd is_call call
      · exact Nat.sub_le ..
    simp only [same_stack]
    exact stack_le k (Nat.lt_of_lt_of_le hk sp_le)

theorem inv_completed {i : Instr} {s : State} (hs : Inv s) (hf : s.fault = none) (hpc : s.pc.toNat ≤ 0xFFE)
    (h : raisesIn i s = none) : Inv (completed i s) := by
  obtain ⟨same_fault, -, same_params, -⟩ := completed_frame i s
  refine ⟨?_, ?_, stack_le_completed hpc hs.stack_le, fun f latched => ?_⟩
  · rw [same_params]
    exact wf_completed hs.mem_wf h
  · rw [pc_completed h]
    exact pcAfter_le hpc hs.stack_le h
  · rw [same_fault, hf] at latched
    cases latched

/-! ### An event keeps the invariant -/

theorem inv_stepEvent {s t : State} (hs : Inv s) (h : s.stepEvent = .next t) : Inv t := by
  have begun := inv_begin hs
  have pc_lt := s.pc.isLt
  rcases stepEvent_cases s with ⟨-, ran⟩ | ⟨-, -, ran⟩ | ⟨w, hf, fetched, ⟨e, -, ran⟩ | ⟨i, -, ran⟩⟩ <;> rw [ran] at h
  · cases h
    exact hs
  · cases h
    exact inv_takeFault begun rfl ⟨by simp, by simp only; omega⟩ 0
  · cases h
    exact inv_takeFault begun rfl ⟨by simp, by have := w.isLt; simp only; omega⟩ w
  · obtain ⟨hpc, -⟩ := State.fetchWord_ok.1 fetched
    rcases exec_cases h with ⟨r, raised, rfl⟩ | ⟨passes, rfl⟩
    · exact inv_takeFault begun rfl (raised_in_range raised) _
    · exact inv_completed begun hf hpc passes

/-- While LOAD is in its contract no fault is latched. -/
theorem fault_eq_none_of_loadOpen {s : State} (hs : Inv s) (contract : s.loadOpen = true) : s.fault = none := by
  cases hf : s.fault with
  | none => rfl
  | some f => exact absurd ((hs.latch_ok f hf).load_off) (by rw [contract]; simp)

theorem inv_loadEvent {s t : State} {bs : List Byte} (hs : Inv s) (h : s.loadEvent bs = .next t) : Inv t := by
  rcases loadEvent_cases s bs with ⟨-, ran⟩ | ⟨contract, -, ran⟩ | ⟨contract, short, ran⟩ <;> rw [ran] at h <;> cases h
  · have no_fault := fault_eq_none_of_loadOpen hs contract
    exact ⟨hs.mem_wf, hs.pc_le, hs.stack_le, fun f hf => nomatch no_fault.symm.trans hf⟩
  · have no_fault := fault_eq_none_of_loadOpen hs contract
    have wf : Memory.wf s.params (s.writeBytes 0x200 bs).mem :=
      State.wf_writeBytes hs.mem_wf (by rw [romMax] at short; omega)
    rw [State.writeBytes_eq]
    exact ⟨wf, hs.pc_le, hs.stack_le, fun f hf => nomatch no_fault.symm.trans hf⟩

theorem inv_runEvent {e : Event} {s t : State} (hs : Inv s) (h : runEvent e s = .next t) : Inv t := by
  cases e with
  | step => exact inv_stepEvent hs h
  | load bs => exact inv_loadEvent hs h
  | reset =>
    cases h
    exact inv_resetWith s.params s.draws s.events
  | tick | keys | frameAck =>
    cases h
    exact inv_congr hs rfl

/-! ### The statements -/

/-- Settles O51: taking an event off the queue keeps the invariant, and so does each event. -/
theorem stepKeepsInvariant : Obligations.StepKeepsInvariant := by
  unfold Obligations.StepKeepsInvariant
  exact fun s t hs h => inv_runEvent (inv_congr hs rfl : Inv s.dequeue) h

/-- Settles O52. -/
theorem resetMeetsInvariant : Obligations.ResetMeetsInvariant := by
  unfold Obligations.ResetMeetsInvariant
  exact inv_resetWith defaultParams 0 []

end Sys2Proof.Machine
end

section
/-! PROOFS. What no step looks at (file 10, sections 5, 7 and 9, and file 70 of the spec): `dirty`, ST and the dead
stack entries. First that two states that agree on the rest raise the same faults and complete alike, then the
statements. -/

namespace Sys2Proof.Machine

open Sys2Proof.Safety

/-! ### Two outcomes of one instruction -/

/-- The outcomes of one instruction in two states agree if both states raise the same fault, and what a fault and what
completion leave is related. -/
theorem outcomesAgree_exec {rel : State → State → Prop} {i : Instr} {s t : State} (raises : raisesIn i s = raisesIn i t)
    (faults : ∀ r w, rel (s.takeFault r w) (t.takeFault r w))
    (completes : raisesIn i t = none → rel (completed i s) (completed i t)) :
    OutcomesAgree rel (exec i s) (exec i t) := by
  cases h : raisesIn i t with
  | some r =>
    rw [exec_of_raises h, exec_of_raises (raises.trans h)]
    exact faults r (encode i)
  | none =>
    rw [exec_of_completes h, exec_of_completes (raises.trans h)]
    exact completes h

/-! ### ST and `dirty` (R33, R36) -/

theorem sameToProgram_of_eq {s t : State} {dirty : Bool} {st : Byte} (h : s = { t with dirty := dirty, st := st }) :
    SameToProgram s t := by
  subst h
  rfl

theorem State.store_withOutputs (t : State) (dirty : Bool) (st : Byte) (a : Nat) (bs : List Byte) :
    ({ t with dirty := dirty, st := st } : State).store a bs = { t.store a bs with dirty := dirty, st := st } :=
  congrArg (fun m => ({ t with mem := m, dirty := dirty, st := st } : State)) (State.mem_writeBytes_congr a bs rfl rfl)

theorem sameToProgram_completed (i : Instr) (t : State) (dirty : Bool) (st : Byte) :
    SameToProgram (completed i { t with dirty := dirty, st := st }) (completed i t) := by
  cases i with
  | ldB x | stRegs x => exact sameToProgram_of_eq (congrArg State.advance (State.store_withOutputs t dirty st _ _))
  | ldVxK x =>
    simp only [completed, State.awaitKey]
    cases selectKey t.params.keySelect (Config.keyDraw t.draws) (pressedKeys t.keys) <;> rfl
  | _ => rfl

/-! ### Dead stack entries (R30, R205) -/

/-- The state with another call stack. -/
def State.withStack (t : State) (stack : Vector Word 16) : State := { t with stack := stack }

section

variable {t : State} {stack : Vector Word 16}
  (live : ∀ k : Fin 16, k.val < t.sp.val → t.stack[k.val] = stack[k.val])

theorem State.store_withStack (t : State) (stack : Vector Word 16) (a : Nat) (bs : List Byte) :
    (t.withStack stack).store a bs = (t.store a bs).withStack stack :=
  congrArg (fun m => ({ t with mem := m, stack := stack } : State)) (State.mem_writeBytes_congr a bs rfl rfl)

/-- An instruction other than CALL and RET neither reads nor writes the stack. -/
theorem completed_withStack {i : Instr} (not_call : ¬ ∃ nnn, i = .call nnn) (not_ret : i ≠ .ret) (t : State)
    (stack : Vector Word 16) : completed i (t.withStack stack) = (completed i t).withStack stack := by
  cases i with
  | call nnn => exact absurd ⟨nnn, rfl⟩ not_call
  | ret => exact absurd rfl not_ret
  | ldB x | stRegs x => exact congrArg State.advance (State.store_withStack t stack _ _)
  | ldVxK x =>
    simp only [completed, State.awaitKey, State.withStack]
    cases selectKey t.params.keySelect (Config.keyDraw t.draws) (pressedKeys t.keys) <;> rfl
  | _ => rfl

include live

/-- RET reads a live entry, the newest one. -/
theorem sameLive_popped (nonempty : t.sp.val ≠ 0) : SameLive (t.withStack stack).popped t.popped := by
  have newest := live ⟨t.sp.val - 1, by omega⟩ (by simp only; omega)
  have same_pc : (t.stack[t.sp.val - 1]?).getD 0 = (stack[t.sp.val - 1]?).getD 0 := by
    rw [getElem?_pos _ _ (by omega), getElem?_pos _ _ (by omega)]
    exact newest
  refine ⟨?_, fun k hk => live k ?_⟩
  · simp only [State.popped, State.withStack, same_pc]
  · have : k.val < t.sp.val - 1 := hk
    omega

/-- CALL writes the entry that becomes live. -/
theorem sameLive_pushed (target : Word) :
    SameLive ((t.withStack stack).pushed target) (t.pushed target) := by
  refine ⟨rfl, fun k hk => ?_⟩
  have below : k.val < min (t.sp.val + 1) 16 := hk
  show (t.stack.setIfInBounds t.sp.val t.nextPc)[k.val] = (stack.setIfInBounds t.sp.val t.nextPc)[k.val]
  rw [Vector.getElem_setIfInBounds, Vector.getElem_setIfInBounds]
  split
  · rfl
  · exact live k (by omega)

theorem sameLive_completed {i : Instr} (h : raisesIn i t = none) :
    SameLive (completed i (t.withStack stack)) (completed i t) := by
  by_cases call : ∃ nnn, i = .call nnn
  · obtain ⟨nnn, rfl⟩ := call
    exact sameLive_pushed live (zextAddr nnn)
  · by_cases ret : i = .ret
    · subst ret
      exact sameLive_popped live fun empty => by simp [raisesIn, empty] at h
    · have same_stack := (stack_completed i t).resolve_right call
      have same_sp := (sp_completed i t).resolve_right (not_or.2 ⟨call, ret⟩)
      rw [completed_withStack call ret]
      refine ⟨rfl, fun k hk => ?_⟩
      have below : k.val < (completed i t).sp.val := hk
      rw [same_sp] at below
      show (completed i t).stack[k.val] = stack[k.val]
      simp only [same_stack]
      exact live k below

theorem outcomesAgree_exec_withStack (i : Instr) :
    OutcomesAgree SameLive (exec i (t.withStack stack)) (exec i t) :=
  outcomesAgree_exec rfl (fun _ _ => ⟨rfl, live⟩) (sameLive_completed live)

theorem outcomesAgree_stepEvent_withStack :
    OutcomesAgree SameLive (t.withStack stack).stepEvent t.stepEvent := by
  cases hf : t.fault with
  | some f =>
    rw [stepEvent_of_fault hf, stepEvent_of_fault (s := t.withStack stack) hf]
    exact ⟨rfl, live⟩
  | none =>
    cases hw : t.fetchWord with
    | error r =>
      rw [stepEvent_of_fetch_error hf hw, stepEvent_of_fetch_error (s := t.withStack stack) hf hw]
      exact ⟨rfl, live⟩
    | ok w =>
      cases hd : decode w with
      | error e =>
        rw [stepEvent_of_reject hf hw hd, stepEvent_of_reject (s := t.withStack stack) hf hw hd]
        exact ⟨rfl, live⟩
      | ok i =>
        rw [stepEvent_exec hf hw hd, stepEvent_exec (s := t.withStack stack) hf hw hd]
        exact outcomesAgree_exec_withStack (t := t.begin) live i

theorem outcomesAgree_loadEvent_withStack (bs : List Byte) :
    OutcomesAgree SameLive ((t.withStack stack).loadEvent bs) (t.loadEvent bs) := by
  cases contract : t.loadOpen with
  | false =>
    rw [loadEvent_of_closed contract, loadEvent_of_closed (s := t.withStack stack) contract]
    rfl
  | true =>
    rcases Nat.lt_or_ge romMax bs.length with long | short
    · rw [loadEvent_of_long contract long, loadEvent_of_long (s := t.withStack stack) contract long]
      exact ⟨rfl, live⟩
    · rw [loadEvent_of_short contract short, loadEvent_of_short (s := t.withStack stack) contract short,
        State.store_withStack]
      exact ⟨rfl, live⟩

theorem outcomesAgree_runEvent_withStack (e : Event) :
    OutcomesAgree SameLive (runEvent e (t.withStack stack)) (runEvent e t) := by
  cases e with
  | step => exact outcomesAgree_stepEvent_withStack live
  | load bs => exact outcomesAgree_loadEvent_withStack live bs
  | reset => exact ⟨rfl, fun _ _ => rfl⟩
  | tick | keys | frameAck => exact ⟨rfl, live⟩

end

/-! ### The statements -/

/-- Settles O57: both states perform the same event, and each event keeps the relation or refuses both. -/
theorem deadStackEntriesUnobservable : Obligations.DeadStackEntriesUnobservable := by
  unfold Obligations.DeadStackEntriesUnobservable
  rintro s t ⟨same, live⟩
  have same_sp : t.sp = s.sp := (congrArg State.sp same :)
  rw [← (same : t.withStack s.stack = s)]
  rw [← same_sp] at live
  exact outcomesAgree_runEvent_withStack (t := t.dequeue) live (nextEvent t)

/-- Settles O58. -/
theorem noInstructionReadsSoundOrDirty : Obligations.NoInstructionReadsSoundOrDirty := by
  unfold Obligations.NoInstructionReadsSoundOrDirty
  intro i s t same
  rw [← (same : { t with dirty := s.dirty, st := s.st } = s)]
  exact outcomesAgree_exec rfl (fun _ _ => rfl) fun _ => sameToProgram_completed i t s.dirty s.st

end Sys2Proof.Machine
end
